-- ==== Sys2Proof/Word.lean ====
section
/-! DEFINITION. The widths of the hardware: a byte, the 16-bit length and year, the 32-bit payload
fields, the 9-bit write index (spec/00_scope.md R8, R9, R10). -/

namespace Sys2Proof

/-- Eight bits, bit 0 the least significant (R9; log 19). -/
abbrev Byte := BitVec 8

/-- Sixteen bits: the declared length (`LEN_W`) and the year. -/
abbrev Half := BitVec 16

/-- Thirty-two bits: the four-byte payload fields. -/
abbrev Word := BitVec 32

/-- Nine bits: the payload write index (`IDX_W`), which must hold 256. -/
abbrev Index := BitVec 9

end Sys2Proof
end

