-- ==== Sys2Proof/Config.lean ====
section
/-! DEFINITION. The parameters of spec/00_scope.md R8 with the values the spec gives them (log 21), the
payload offsets of spec/20_memory.md R58, and the open contents of the two command strings
(spec/43_command_encoder.md R182), which no definition fixes (log 11). -/

namespace Sys2Proof.Config

/-- `SYNC1`, the first sync byte. -/
abbrev sync1 : Byte := 0xB5
/-- `SYNC2`, the second sync byte. -/
abbrev sync2 : Byte := 0x62
/-- `CAP`, the payload buffer's capacity and the largest accepted declared length. -/
abbrev cap : Nat := 256
/-- `REC_CLASS`, the class of the recognized message. -/
abbrev recClass : Byte := 0x01
/-- `REC_ID`, the id of the recognized message. -/
abbrev recId : Byte := 0x07
/-- `MIN_LEN`, the least declared length at which the recognized message is decoded. -/
abbrev minLen : Nat := 84
/-- `FIX_MIN`, the least fix type that can be valid. -/
abbrev fixMin : Nat := 3
/-- `FLAG_FIX_BIT`, the bit of the flags byte that must be set for validity. -/
abbrev flagFixBit : Nat := 0
/-- `DEG_DIV`, from raw latitude or longitude to degrees. -/
abbrev degDiv : Nat := 10000000
/-- `MM_DIV`, from millimetres to metres. -/
abbrev mmDiv : Nat := 1000

/-! Payload offsets of the extracted fields (R58). -/

abbrev offYear : Nat := 4
abbrev offMonth : Nat := 6
abbrev offDay : Nat := 7
abbrev offHour : Nat := 8
abbrev offMinute : Nat := 9
abbrev offSecond : Nat := 10
abbrev offNano : Nat := 16
abbrev offFixType : Nat := 20
abbrev offFlags : Nat := 21
abbrev offNumSv : Nat := 23
abbrev offLon : Nat := 24
abbrev offLat : Nat := 28
abbrev offHMsl : Nat := 36
abbrev offHAcc : Nat := 40
abbrev offVAcc : Nat := 44
abbrev offGSpeed : Nat := 60

/-- The (offset, bytes) pairs of the sixteen extracted fields (R58, R54). -/
def extractedFields : List (Nat × Nat) :=
  [(offYear, 2), (offMonth, 1), (offDay, 1), (offHour, 1), (offMinute, 1), (offSecond, 1)] ++
  [(offNano, 4), (offFixType, 1), (offFlags, 1), (offNumSv, 1), (offLon, 4), (offLat, 4)] ++
  [(offHMsl, 4), (offHAcc, 4), (offVAcc, 4), (offGSpeed, 4)]

/-- The constraints R8 sets on a configuration, for the values above: `LEN_W` = 16, `IDX_W` = 9. -/
def admissible : Bool :=
  decide (1 ≤ cap) && decide (cap ≤ 2 ^ 16 - 1) && decide (cap ≤ 2 ^ 9 - 1) &&
  extractedFields.all (fun f => decide (f.1 + f.2 ≤ minLen)) && decide (minLen ≤ cap)

/-- The two commands of the Command Encoder (R180): (a) and (b). -/
inductive Command where
  /-- `CMD_PORT_CFG`: sets the remote device's active protocols. -/
  | portCfg
  /-- `CMD_MSG_RATE`: enables the recognized message, one emission per solution. -/
  | msgRate
  deriving DecidableEq, Repr

/-- The class byte of a command string: open (R182, D18; log 11). -/
opaque commandClass : Command → Byte
/-- The id byte of a command string: open (R182, D18; log 11). -/
opaque commandId : Command → Byte
/-- The payload length of a command string: open (R182, D18; log 11). -/
opaque commandLen : Command → Half
/-- The payload bytes of a command string by payload offset: open (R182, D18; log 11). -/
opaque commandByte : Command → Nat → Byte

end Sys2Proof.Config
end

