-- ==== Sys2Proof/Syntax.lean ====
section
/-! DEFINITION. One constructor per row of spec/opcode_table.json: the 18 byte operations of
spec/30_encoding.md R80 and the 2 frame-level rows of R70 and R71. The one operand of an operation is
the input byte `b` (R78); S1.HIT and S2.HIT fix it. -/

namespace Sys2Proof

/-- The operations of the hardware. -/
inductive Instr where
  /-- S1.HIT (R100). -/
  | s1Hit
  /-- S1.MISS (R101). -/
  | s1Miss (b : Byte)
  /-- S2.HIT (R102). -/
  | s2Hit
  /-- S2.MISS (R103). -/
  | s2Miss (b : Byte)
  /-- CLS (R104). -/
  | cls (b : Byte)
  /-- ID (R105). -/
  | ident (b : Byte)
  /-- LENLO (R106). -/
  | lenLo (b : Byte)
  /-- LENHI.ZERO (R108). -/
  | lenHiZero (b : Byte)
  /-- LENHI.OK (R109). -/
  | lenHiOk (b : Byte)
  /-- LENHI.OVER (R110). -/
  | lenHiOver (b : Byte)
  /-- PAY.GUARD (R128). -/
  | payGuard (b : Byte)
  /-- PAY.LAST (R127). -/
  | payLast (b : Byte)
  /-- PAY.MORE (R126). -/
  | payMore (b : Byte)
  /-- CKA (R130). -/
  | cka (b : Byte)
  /-- CKB.REC (R133). -/
  | ckbRec (b : Byte)
  /-- CKB.SHORT (R134). -/
  | ckbShort (b : Byte)
  /-- CKB.OTHER (R135). -/
  | ckbOther (b : Byte)
  /-- CKB.BAD (R136). -/
  | ckbBad (b : Byte)
  /-- FRAME.HEADER (R70): the header of a frame of class `c`, id `i`, length bytes `l`, `h`. -/
  | frameHeader (c i l h : Byte)
  /-- FRAME.RECOGNIZED (R71): the header of a recognized frame of length bytes `l`, `h`. -/
  | frameRecognized (l h : Byte)
  deriving DecidableEq, Repr

end Sys2Proof
end

