-- ==== Sys2Proof/Machine/State.lean ====
section
/-! DEFINITION. The state of the hardware (spec/10_state.md R20), its outputs (R32, R25), the Record
(spec/42_record_extract.md R150), the error classes (spec/60_exceptions.md R200, R202), the input
the host presents (R30), and the reset state (R42). -/

namespace Sys2Proof.Machine

/-- The nine values of the state register, in order (R21; log 18). -/
inductive StateName where
  | awaitSync1 | awaitSync2 | readClass | readId | readLengthLow | readLengthHigh
  | readPayload | readChecksumA | readChecksumB
  deriving DecidableEq, Repr

/-- The payload buffer (R28): the bytes that differ from `unlistedByte`, at rising addresses. -/
abbrev Memory := List Host.Cell

/-- What an unlisted address of the buffer reads as: reset and `full_reset` leave 0 (R40, R42; log 13). -/
def unlistedByte : Byte := 0

/-- The full state of the hardware (R20). -/
structure Decoder where
  /-- state register -/
  st : StateName
  /-- class byte of the frame in flight -/
  cls : Byte
  /-- id byte of the frame in flight -/
  id : Byte
  /-- declared length -/
  len : Half
  /-- payload write index -/
  idx : Index
  /-- received checksum A -/
  rxCka : Byte
  /-- received checksum B -/
  rxCkb : Byte
  /-- running checksum accumulator A -/
  cka : Byte
  /-- running checksum accumulator B -/
  ckb : Byte
  /-- payload buffer -/
  pay : Memory
  deriving DecidableEq, Repr

/-- The initial state (R42): `AwaitSync1`, everything else 0. -/
def Decoder.initial : Decoder where
  st := .awaitSync1
  cls := 0
  id := 0
  len := 0
  idx := 0
  rxCka := 0
  rxCkb := 0
  cka := 0
  ckb := 0
  pay := []

/-- The positioning Record (R150): 15 fields, the raw bits of the ports `rec_*`. The fields R150 reads
as signed are read so by `signed32` (log 9). -/
structure Record where
  valid : Bool
  year : Half
  month : Byte
  day : Byte
  hour : Byte
  minute : Byte
  second : Byte
  nano : Word
  lon : Word
  lat : Word
  hMsl : Word
  hAcc : Word
  vAcc : Word
  gSpeed : Word
  numSv : Byte
  deriving DecidableEq, Repr

/-- The labels of a step: the four error classes of R200 and the two events of R202. -/
inductive StepLabel where
  /-- class 1: unexpected byte during the sync search -/
  | framingError
  /-- class 2: declared length above the capacity -/
  | oversizeError
  /-- class 3: checksum mismatch -/
  | checksumError
  /-- class 4: recognized frame shorter than the minimum -/
  | shortPayloadError
  /-- a valid frame of another class/id; no error class -/
  | swallowed
  /-- the write-index guard; no error class -/
  | guardTrip
  deriving DecidableEq, Repr

/-- The output of one step (R32): `record` and `ckErr` are the ports; `label` appears on no port and
only names what the step did (R13, R202; log 2). -/
structure Output where
  record : Option Record
  ckErr : Bool
  label : Option StepLabel
  deriving DecidableEq, Repr

/-- `(None, 0)`, with no label. -/
def Output.silent : Output := ⟨none, false, none⟩

/-- What the host presents: the input ports of one cycle (R30), or a frame header as one unit, which
stands for its six bytes (log 3). -/
inductive Stimulus where
  | cycle (rst inValid : Bool) (inByte : Byte)
  | header (c i l h : Byte)
  deriving DecidableEq, Repr

/-- What a step finds to do. -/
inductive Fetched where
  /-- a cycle with `rst = 1` -/
  | hardReset
  /-- a cycle with `rst = 0` and `in_valid = 0`, or nothing presented -/
  | idle
  /-- a byte to consume -/
  | byte (b : Byte)
  /-- a frame header to consume -/
  | header (c i l h : Byte)
  deriving DecidableEq, Repr

/-- The machine: the decoder's state and its interface. -/
structure State where
  /-- the hardware's whole state (R20) -/
  dec : Decoder
  /-- the outputs presented in the present cycle (R30, R32) -/
  out : Output
  /-- the MODEL's: what the host still has to present, oldest first (log 1) -/
  source : List Stimulus
  /-- the MODEL's: the outputs of all bytes consumed, oldest first, as `run` of R15 lists them (log 2) -/
  sink : List Output
  deriving DecidableEq, Repr

/-- The machine right after reset (R42): the initial state, outputs 0, nothing presented yet (log 1, log 2). -/
def State.reset : State where
  dec := Decoder.initial
  out := Output.silent
  source := []
  sink := []

/-- Why the machine can stop. -/
inductive Fault where
  /-- Raised by PAY.MORE and PAY.LAST executed with `idx >= CAP`: the address does not exist (R12,
  R56). R80 never selects them there, so no step raises it. Safe (log 5). -/
  | payloadOutOfBounds
  deriving DecidableEq, Repr

/-- Why an instruction can have no meaning. -/
inductive Refusal where
  /-- Raised by an arm of `exec` whose instruction has no meaning yet; there is none. Safe. -/
  | notModelled (mnemonic : String)
  deriving DecidableEq, Repr

/-- The outcome of a meaning. -/
abbrev Result := Host.Outcome State Fault Refusal

end Sys2Proof.Machine
end

