-- ==== Sys2Proof/Machine/Flags.lean ====
section
/-! DEFINITION. The rolling checksum (spec/41_payload_checksum.md R120, spec/30_encoding.md R74) and the
one-bit conditions of a step (spec/10_state.md R25, spec/30_encoding.md R80). Nothing here is stored. -/

namespace Sys2Proof.Machine

/-- One round of the checksum recurrence: `B` adds the NEW `A` (R74, R120). -/
def ckStep (ab : Byte × Byte) (x : Byte) : Byte × Byte :=
  (ab.1 + x, ab.2 + (ab.1 + x))

/-- `ck_of(X)` (R74). -/
def ckOf (bytes : List Byte) : Byte × Byte :=
  bytes.foldl ckStep (0, 0)

/-- `ok` of R80 and R132: both received checksum bytes match, `b` being the second. -/
def Decoder.checksumOk (d : Decoder) (b : Byte) : Bool :=
  d.rxCka == d.cka && b == d.ckb

/-- `rec` of R80 and R132: class and id are the recognized ones. -/
def Decoder.recognized (d : Decoder) : Bool :=
  d.cls == Config.recClass && d.id == Config.recId

/-- `len < MIN_LEN` (R134). -/
def Decoder.tooShort (d : Decoder) : Bool :=
  decide (d.len.toNat < Config.minLen)

/-- `idx >= CAP` (R128). -/
def Decoder.atCapacity (d : Decoder) : Bool :=
  decide (Config.cap ≤ d.idx.toNat)

/-- `idx + 1 == len`, without wrap-around (R82, R127; log 16). -/
def Decoder.atLast (d : Decoder) : Bool :=
  decide (d.idx.toNat + 1 = d.len.toNat)

/-- The validity rule (R156): `(fix_type >= 3) and (flags bit 0 == 1)`. -/
def validFix (fixType flags : Byte) : Bool :=
  decide (Config.fixMin ≤ fixType.toNat) && flags.getLsbD Config.flagFixBit

/-- The port `rec_valid` (R25, R30). -/
def Output.recValid (o : Output) : Bool := o.record.isSome

/-- The port `in_ready`: the decoder accepts a byte in every cycle (R30, R244). -/
def State.inReady (_ : State) : Bool := true

/-- The number of an error class in the source's taxonomy (R200); the events of R202 have none. -/
def StepLabel.code : StepLabel → Option Nat
  | .framingError => some 1
  | .oversizeError => some 2
  | .checksumError => some 3
  | .shortPayloadError => some 4
  | .swallowed => none
  | .guardTrip => none

end Sys2Proof.Machine
end

