-- ==== Sys2Proof/Machine/Ops.lean ====
section
/-! DEFINITION. The named operations on the payload buffer (spec/00_scope.md R12), the decoder
(`fold` R120, `full_reset` R40) and the step's output (`raise` R13), taking an error (R214), and what
a step takes from the host (R30). There is no return operation (R215). -/

namespace Sys2Proof.Machine

/-- One byte of the buffer. -/
def Memory.readByte : Memory → Nat → Byte
  | [], _ => unlistedByte
  | (k, v) :: m, a => if k = a then v else Memory.readByte m a

/-- The cell of a value, or none where the value is what an unlisted address reads as. -/
def Memory.cell (a : Nat) (b : Byte) : Memory :=
  if b = unlistedByte then [] else [(a, b)]

/-- `MemWrite(a, 1, b)` (R12) on the canonical list. -/
def Memory.writeByte : Memory → Nat → Byte → Memory
  | [], a, b => Memory.cell a b
  | (k, v) :: m, a, b =>
    if a < k then Memory.cell a b ++ (k, v) :: m
    else if a = k then Memory.cell a b ++ m
    else (k, v) :: Memory.writeByte m a b

/-- The canonical form: addresses below `CAP`, strictly rising, no cell equal to `unlistedByte`. -/
def Memory.wf : Memory → Bool
  | [] => true
  | (k, v) :: m =>
    decide (k < Config.cap) && v != unlistedByte && m.all (fun c => decide (k < c.1)) && Memory.wf m

/-- `fold(b)` (R120): `cka` first, then `ckb` with the new `cka`. -/
def Decoder.fold (b : Byte) (d : Decoder) : Decoder :=
  { d with cka := (ckStep (d.cka, d.ckb) b).1, ckb := (ckStep (d.cka, d.ckb) b).2 }

/-- `st <- n`. -/
def Decoder.goto (n : StateName) (d : Decoder) : Decoder :=
  { d with st := n }

/-- `full_reset()` (R40; log 6). -/
def Decoder.fullReset (_ : Decoder) : Decoder where
  st := .awaitSync1
  cls := 0
  id := 0
  len := 0
  idx := 0
  rxCka := 0
  rxCkb := 0
  cka := 0
  ckb := 0
  pay := []

/-- `MemWrite(idx, 1, b); fold(b); idx <- idx + 1`, common to PAY.MORE and PAY.LAST (R126, R127). No
value where `idx >= CAP`: that address does not exist (log 5). -/
def Decoder.storePayload (b : Byte) (d : Decoder) : Option Decoder :=
  if d.idx.toNat < Config.cap then
    some { ({ d with pay := d.pay.writeByte d.idx.toNat b }.fold b) with idx := d.idx + 1 }
  else none

/-- `raise e` (R13): names the error class of the step; a ChecksumError also sets `ck_err` (R204). -/
def Output.raise (e : StepLabel) (o : Output) : Output :=
  { o with ckErr := o.ckErr || e == .checksumError, label := some e }

/-- The end of a byte's step: the new registers, and the step's output presented and listed. -/
def State.commit (s : State) (d : Decoder) (o : Output) : State :=
  { s with dec := d, out := o, sink := s.sink ++ [o] }

/-- Taking an error (R214), or one of the two events of R202, from the registers `d` the operation has
reached: the label, `ck_err` where R204 sets it, and the full reset. Nothing is saved. -/
def State.takeError (s : State) (e : StepLabel) (d : Decoder) : State :=
  s.commit d.fullReset (Output.silent.raise e)

/-- A cycle in which no byte is presented: state held, outputs 0 (R30). -/
def State.idleCycle (s : State) : State :=
  { s with out := Output.silent }

/-- A cycle with `rst = 1` (R230): the reset state, outputs 0, no byte consumed (log 8). -/
def State.hardReset (s : State) : State :=
  { s with dec := Decoder.initial, out := Output.silent }

/-- What the next cycle presents (R30), hard reset before everything (R212, R230), and the state with
it taken from the source. Nothing left to present is an idle cycle (log 1). -/
def fetch (s : State) : Fetched × State :=
  match s.source with
  | [] => (.idle, s)
  | .cycle true _ _ :: rest => (.hardReset, { s with source := rest })
  | .cycle false false _ :: rest => (.idle, { s with source := rest })
  | .cycle false true b :: rest => (.byte b, { s with source := rest })
  | .header c i l h :: rest => (.header c i l h, { s with source := rest })

end Sys2Proof.Machine
end

