-- ==== Sys2Proof/Machine/Operands.lean ====
section
/-! DEFINITION. How bytes are put together into operands: the declared length (spec/30_encoding.md R75,
spec/40_sync_header.md R106, R107), the little-endian payload fields (`MemRead`, spec/00_scope.md R12,
spec/20_memory.md R50), the signed reading (R11), the six bytes of a frame header (R70). -/

namespace Sys2Proof.Machine

/-- `v[7:0]`. -/
def lowByte (v : Half) : Byte := v.extractLsb' 0 8

/-- `v[15:8]`. -/
def highByte (v : Half) : Byte := v.extractLsb' 8 8

/-- `zext_16(b)`: LENLO clears the high byte (R106; log 20). -/
def lenFromLow (b : Byte) : Half := b.setWidth 16

/-- `{b, len[7:0]}`: the length once `b` is its high byte (R107). -/
def lenWithHigh (len : Half) (b : Byte) : Half := b ++ lowByte len

/-- `MemRead(a, 1)`. -/
def Memory.read1 (m : Memory) (a : Nat) : Byte := m.readByte a

/-- `MemRead(a, 2)` = `{pay[a+1], pay[a]}` (R50). -/
def Memory.read2 (m : Memory) (a : Nat) : Half := m.readByte (a + 1) ++ m.readByte a

/-- `MemRead(a, 4)` = `{pay[a+3], pay[a+2], pay[a+1], pay[a]}` (R50). -/
def Memory.read4 (m : Memory) (a : Nat) : Word :=
  m.readByte (a + 3) ++ m.readByte (a + 2) ++ m.readByte (a + 1) ++ m.readByte a

/-- `signed_32(v)`: the two's-complement reading (R11). -/
def signed32 (v : Word) : Int := v.toInt

/-- The header of a frame (R70), first byte to arrive first. -/
def headerBytes (c i l h : Byte) : List Byte :=
  [Config.sync1, Config.sync2, c, i, l, h]

end Sys2Proof.Machine
end

