-- ==== Sys2Proof/WellFormed.lean ====
section
/-! DEFINITION. The operand values each operation can have (spec/30_encoding.md R80): those for which
some register state selects it. The LENHI bounds are R80's reading of the guards off the high byte. -/

namespace Sys2Proof

/-- An operation's operand is one its row of R80 admits. A FRAME.HEADER of class 01, id 07 is the more
specific FRAME.RECOGNIZED (log 3). -/
def Instr.wf : Instr → Bool
  | .s1Hit => true
  | .s1Miss b => b != Config.sync1
  | .s2Hit => true
  | .s2Miss b => b != Config.sync2
  | .cls _ => true
  | .ident _ => true
  | .lenLo _ => true
  | .lenHiZero b => b == 0
  | .lenHiOk b => b == 0 || b == 1
  | .lenHiOver b => b != 0
  | .payGuard _ => true
  | .payLast _ => true
  | .payMore _ => true
  | .cka _ => true
  | .ckbRec _ => true
  | .ckbShort _ => true
  | .ckbOther _ => true
  | .ckbBad _ => true
  | .frameHeader c i _ _ => !(c == Config.recClass && i == Config.recId)
  | .frameRecognized _ _ => true

end Sys2Proof
end

