-- ==== Sys2Proof/Decode.lean ====
section
/-! DEFINITION. The operation map of spec/30_encoding.md: which operation the next byte selects in a
given state (R80, R82), the frame-level rows (R70, R71), the encoder, and the rows of the opcode table
as R89 describes them. The decoder is a function of the registers and the byte: the byte alone does not
determine the operation. -/

namespace Sys2Proof

open Machine

/-- The operation the byte `b` selects (R82), test by test in the source's order. -/
def decodeByte (d : Decoder) (b : Byte) : Instr :=
  match d.st with
  | .awaitSync1 => if b = Config.sync1 then .s1Hit else .s1Miss b
  | .awaitSync2 => if b = Config.sync2 then .s2Hit else .s2Miss b
  | .readClass => .cls b
  | .readId => .ident b
  | .readLengthLow => .lenLo b
  | .readLengthHigh =>
    if lenWithHigh d.len b = 0 then .lenHiZero b
    else if (lenWithHigh d.len b).toNat ≤ Config.cap then .lenHiOk b
    else .lenHiOver b
  | .readPayload =>
    if d.atCapacity then .payGuard b
    else if d.atLast then .payLast b
    else .payMore b
  | .readChecksumA => .cka b
  | .readChecksumB =>
    if !d.checksumOk b then .ckbBad b
    else if !d.recognized then .ckbOther b
    else if d.tooShort then .ckbShort b
    else .ckbRec b

/-- The frame-level row of a header with these four bytes: the more specific one first (log 3). -/
def headerInstr (c i l h : Byte) : Instr :=
  if c = Config.recClass ∧ i = Config.recId then .frameRecognized l h else .frameHeader c i l h

/-- Why a byte list holds no operation or no frame header. -/
inductive DecodeError where
  /-- no byte has arrived -/
  | noByte
  /-- fewer than six bytes of header -/
  | truncatedHeader
  /-- the first byte is not `SYNC1` -/
  | badSync1
  /-- the second byte is not `SYNC2` -/
  | badSync2
  deriving DecidableEq, Repr

/-- The next operation of a byte list, and the bytes after it. Every byte is legal in every state (R84). -/
def decode (d : Decoder) : List Byte → Except DecodeError (Instr × List Byte)
  | [] => .error .noByte
  | b :: rest => .ok (decodeByte d b, rest)

/-- The frame header at the head of a byte list (R70, R71), and the bytes after it. -/
def decodeHeader : List Byte → Except DecodeError (Instr × List Byte)
  | s1 :: s2 :: c :: i :: l :: h :: rest =>
    if s1 ≠ Config.sync1 then .error .badSync1
    else if s2 ≠ Config.sync2 then .error .badSync2
    else .ok (headerInstr c i l h, rest)
  | _ => .error .truncatedHeader

/-- The bytes of an operation, first to arrive first. -/
def encode : Instr → List Byte
  | .s1Hit => [Config.sync1]
  | .s1Miss b => [b]
  | .s2Hit => [Config.sync2]
  | .s2Miss b => [b]
  | .cls b => [b]
  | .ident b => [b]
  | .lenLo b => [b]
  | .lenHiZero b => [b]
  | .lenHiOk b => [b]
  | .lenHiOver b => [b]
  | .payGuard b => [b]
  | .payLast b => [b]
  | .payMore b => [b]
  | .cka b => [b]
  | .ckbRec b => [b]
  | .ckbShort b => [b]
  | .ckbOther b => [b]
  | .ckbBad b => [b]
  | .frameHeader c i l h => headerBytes c i l h
  | .frameRecognized l h => headerBytes Config.recClass Config.recId l h

/-- The columns `state`, `mask` and `match` of a byte row (R89). -/
structure Row where
  state : StateName
  mask : Byte
  pattern : Byte
  deriving DecidableEq, Repr

/-- The row of a byte operation; the frame-level rows have none. -/
def Instr.row : Instr → Option Row
  | .s1Hit => some ⟨.awaitSync1, 0xFF, 0xB5⟩
  | .s1Miss _ => some ⟨.awaitSync1, 0x00, 0x00⟩
  | .s2Hit => some ⟨.awaitSync2, 0xFF, 0x62⟩
  | .s2Miss _ => some ⟨.awaitSync2, 0x00, 0x00⟩
  | .cls _ => some ⟨.readClass, 0x00, 0x00⟩
  | .ident _ => some ⟨.readId, 0x00, 0x00⟩
  | .lenLo _ => some ⟨.readLengthLow, 0x00, 0x00⟩
  | .lenHiZero _ => some ⟨.readLengthHigh, 0x00, 0x00⟩
  | .lenHiOk _ => some ⟨.readLengthHigh, 0x00, 0x00⟩
  | .lenHiOver _ => some ⟨.readLengthHigh, 0x00, 0x00⟩
  | .payGuard _ => some ⟨.readPayload, 0x00, 0x00⟩
  | .payLast _ => some ⟨.readPayload, 0x00, 0x00⟩
  | .payMore _ => some ⟨.readPayload, 0x00, 0x00⟩
  | .cka _ => some ⟨.readChecksumA, 0x00, 0x00⟩
  | .ckbRec _ => some ⟨.readChecksumB, 0x00, 0x00⟩
  | .ckbShort _ => some ⟨.readChecksumB, 0x00, 0x00⟩
  | .ckbOther _ => some ⟨.readChecksumB, 0x00, 0x00⟩
  | .ckbBad _ => some ⟨.readChecksumB, 0x00, 0x00⟩
  | .frameHeader _ _ _ _ => none
  | .frameRecognized _ _ => none

/-- The column `guard` of a byte row (R80, R89), over the registers and the byte. -/
def Instr.guard (d : Decoder) (b : Byte) : Instr → Bool
  | .s1Hit => true
  | .s1Miss _ => b != Config.sync1
  | .s2Hit => true
  | .s2Miss _ => b != Config.sync2
  | .cls _ => true
  | .ident _ => true
  | .lenLo _ => true
  | .lenHiZero _ => (lenWithHigh d.len b).toNat == 0
  | .lenHiOk _ =>
    decide (1 ≤ (lenWithHigh d.len b).toNat) && decide ((lenWithHigh d.len b).toNat ≤ Config.cap)
  | .lenHiOver _ => decide ((lenWithHigh d.len b).toNat > Config.cap)
  | .payGuard _ => decide (d.idx.toNat ≥ Config.cap)
  | .payLast _ => decide (d.idx.toNat < Config.cap) && d.idx.toNat + 1 == d.len.toNat
  | .payMore _ => decide (d.idx.toNat < Config.cap) && d.idx.toNat + 1 != d.len.toNat
  | .cka _ => true
  | .ckbRec _ =>
    d.rxCka == d.cka && b == d.ckb && d.cls == Config.recClass && d.id == Config.recId &&
      decide (d.len.toNat ≥ Config.minLen)
  | .ckbShort _ =>
    d.rxCka == d.cka && b == d.ckb && d.cls == Config.recClass && d.id == Config.recId &&
      decide (d.len.toNat < Config.minLen)
  | .ckbOther _ =>
    d.rxCka == d.cka && b == d.ckb && !(d.cls == Config.recClass && d.id == Config.recId)
  | .ckbBad _ => !(d.rxCka == d.cka && b == d.ckb)
  | .frameHeader _ _ _ _ => false
  | .frameRecognized _ _ => false

/-- The row of `i` selects it on byte `b` in registers `d`: state, match under mask, guard, and the
byte is the operation's operand (R81, R89). -/
def selects (d : Decoder) (b : Byte) (i : Instr) : Bool :=
  match i.row with
  | none => false
  | some r => d.st == r.state && (b &&& r.mask) == r.pattern && i.guard d b && encode i == [b]

/-- The state in which a byte taken by itself is read (log 10): the one whose row fixes it, `AwaitSync2`
for `SYNC2`, else `AwaitSync1`, where the machine stands after reset. -/
def wordState (b : Byte) : StateName :=
  if b = Config.sync2 then .awaitSync2 else .awaitSync1

/-- The six header bytes of a 48-bit word numbered as the table numbers it: the first byte to arrive is
bits 47..40 (R70). -/
def wordBytes (w : Nat) : List Byte :=
  [40, 32, 24, 16, 8, 0].map (fun k => BitVec.ofNat 8 (w >>> k))

/-- The instruction of a table word (log 10). -/
def decodeTableWord (nbits w : Nat) : Option Instr :=
  if nbits = 8 then
    some (decodeByte { Decoder.initial with st := wordState (BitVec.ofNat 8 w) } (BitVec.ofNat 8 w))
  else if nbits = 48 then
    match decodeHeader (wordBytes w) with
    | .ok (i, _) => some i
    | .error _ => none
  else none

end Sys2Proof
end

