-- ==== Sys2Proof/Machine/Header.lean ====
section
/-! DEFINITION. Class, id and declared length: CLS, ID, LENLO, LENHI.ZERO, LENHI.OK, LENHI.OVER
(spec/40_sync_header.md R104 to R110). -/

namespace Sys2Proof.Machine

/-- CLS (R104). -/
def execCls (b : Byte) (s : State) : Result :=
  .next (s.commit (({ s.dec with cls := b }.fold b).goto .readId) Output.silent)

/-- ID (R105). -/
def execIdent (b : Byte) (s : State) : Result :=
  .next (s.commit (({ s.dec with id := b }.fold b).goto .readLengthLow) Output.silent)

/-- LENLO (R106): low byte set, high byte cleared. -/
def execLenLo (b : Byte) (s : State) : Result :=
  .next (s.commit (({ s.dec with len := lenFromLow b }.fold b).goto .readLengthHigh) Output.silent)

/-- What the three LENHI operations begin with (R107): assemble the length, fold the byte. -/
def Decoder.takeLenHigh (b : Byte) (d : Decoder) : Decoder :=
  { d with len := lenWithHigh d.len b }.fold b

/-- LENHI.ZERO (R108): `ReadPayload` is skipped; `idx` is not written. -/
def execLenHiZero (b : Byte) (s : State) : Result :=
  .next (s.commit ((s.dec.takeLenHigh b).goto .readChecksumA) Output.silent)

/-- LENHI.OK (R109): the write index starts from 0. -/
def execLenHiOk (b : Byte) (s : State) : Result :=
  .next (s.commit ({ s.dec.takeLenHigh b with idx := 0 }.goto .readPayload) Output.silent)

/-- LENHI.OVER (R110): the frame is dropped at once; neither the length nor the fold survives. -/
def execLenHiOver (b : Byte) (s : State) : Result :=
  .next (s.takeError .oversizeError (s.dec.takeLenHigh b))

end Sys2Proof.Machine
end

