-- ==== Sys2Proof/Machine/Payload.lean ====
section
/-! DEFINITION. The payload: PAY.MORE, PAY.LAST, PAY.GUARD (spec/41_payload_checksum.md R126 to R128). -/

namespace Sys2Proof.Machine

/-- PAY.MORE (R126): store, fold, count on. -/
def execPayMore (b : Byte) (s : State) : Result :=
  match s.dec.storePayload b with
  | some d => .next (s.commit d Output.silent)
  | none => .fault .payloadOutOfBounds

/-- PAY.LAST (R127): store, fold, count on, and the payload is complete. -/
def execPayLast (b : Byte) (s : State) : Result :=
  match s.dec.storePayload b with
  | some d => .next (s.commit (d.goto .readChecksumA) Output.silent)
  | none => .fault .payloadOutOfBounds

/-- PAY.GUARD (R128): the byte is discarded; no write, no fold. -/
def execPayGuard (_b : Byte) (s : State) : Result :=
  .next (s.takeError .guardTrip s.dec)

end Sys2Proof.Machine
end

