-- ==== Sys2Proof/Machine/Sync.lean ====
section
/-! DEFINITION. The sync search: S1.HIT, S1.MISS, S2.HIT, S2.MISS (spec/40_sync_header.md R100 to R103).
A meaning is its rule's pseudocode; which operation a byte selects is the decoder's matter (log 4). -/

namespace Sys2Proof.Machine

/-- S1.HIT (R100): `st <- AwaitSync2`; the byte is neither stored nor folded. -/
def execS1Hit (s : State) : Result :=
  .next (s.commit (s.dec.goto .awaitSync2) Output.silent)

/-- S1.MISS (R101): no register changes; a FramingError without a signal. -/
def execS1Miss (_b : Byte) (s : State) : Result :=
  .next (s.commit s.dec (Output.silent.raise .framingError))

/-- S2.HIT (R102): the accumulators start from 0. -/
def execS2Hit (s : State) : Result :=
  .next (s.commit ({ s.dec with cka := 0, ckb := 0 }.goto .readClass) Output.silent)

/-- S2.MISS (R103): the strict reset; the byte is discarded even when it is `SYNC1`. -/
def execS2Miss (_b : Byte) (s : State) : Result :=
  .next (s.takeError .framingError s.dec)

end Sys2Proof.Machine
end

