-- ==== Sys2Proof/Machine/Extract.lean ====
section
/-! DEFINITION. The record extractor: `decode_record()` (spec/42_record_extract.md R152). -/

namespace Sys2Proof.Machine

/-- `decode_record()` (R152) on the payload buffer. It reads 38 bytes below offset 64 and writes
nothing; no field is range-checked (R154). -/
def decodeRecord (m : Memory) : Record where
  valid := validFix (m.read1 Config.offFixType) (m.read1 Config.offFlags)
  year := m.read2 Config.offYear
  month := m.read1 Config.offMonth
  day := m.read1 Config.offDay
  hour := m.read1 Config.offHour
  minute := m.read1 Config.offMinute
  second := m.read1 Config.offSecond
  nano := m.read4 Config.offNano
  lon := m.read4 Config.offLon
  lat := m.read4 Config.offLat
  hMsl := m.read4 Config.offHMsl
  hAcc := m.read4 Config.offHAcc
  vAcc := m.read4 Config.offVAcc
  gSpeed := m.read4 Config.offGSpeed
  numSv := m.read1 Config.offNumSv

end Sys2Proof.Machine
end

