-- ==== Sys2Proof/Machine/Trailer.lean ====
section
/-! DEFINITION. The received checksum: CKA, CKB.REC, CKB.SHORT, CKB.OTHER, CKB.BAD
(spec/41_payload_checksum.md R130 to R136). Neither byte is folded. -/

namespace Sys2Proof.Machine

/-- CKA (R130): the byte is stored, neither folded nor compared. -/
def execCka (b : Byte) (s : State) : Result :=
  .next (s.commit ({ s.dec with rxCka := b }.goto .readChecksumB) Output.silent)

/-- `rx_ckb <- b`, which the four CKB operations begin with (R132). -/
def Decoder.takeCkb (b : Byte) (d : Decoder) : Decoder :=
  { d with rxCkb := b }

/-- CKB.REC (R133): the Record is read from the buffer before the full reset clears it (R62). -/
def execCkbRec (b : Byte) (s : State) : Result :=
  .next (s.commit (s.dec.takeCkb b).fullReset
    { Output.silent with record := some (decodeRecord (s.dec.takeCkb b).pay) })

/-- CKB.SHORT (R134): dropped silently; the buffer is not read. -/
def execCkbShort (b : Byte) (s : State) : Result :=
  .next (s.takeError .shortPayloadError (s.dec.takeCkb b))

/-- CKB.OTHER (R135): swallowed; not an error. -/
def execCkbOther (b : Byte) (s : State) : Result :=
  .next (s.takeError .swallowed (s.dec.takeCkb b))

/-- CKB.BAD (R136): the only operation with `ck_err = 1`. -/
def execCkbBad (b : Byte) (s : State) : Result :=
  .next (s.takeError .checksumError (s.dec.takeCkb b))

end Sys2Proof.Machine
end

