-- ==== Sys2Proof/Machine/Consume.lean ====
section
/-! DEFINITION. `consume(byte)` as the dispatch pseudocode of spec/30_encoding.md R82 writes it, and its
fold over a byte list, `run` of spec/00_scope.md R15. The frame-level rows of the table are made of it. -/

namespace Sys2Proof.Machine

/-- `step(s, b)` of R82, test by test in the source's order. -/
def consumeByte (b : Byte) (s : State) : Result :=
  match s.dec.st with
  | .awaitSync1 => if b = Config.sync1 then execS1Hit s else execS1Miss b s
  | .awaitSync2 => if b = Config.sync2 then execS2Hit s else execS2Miss b s
  | .readClass => execCls b s
  | .readId => execIdent b s
  | .readLengthLow => execLenLo b s
  | .readLengthHigh =>
    if lenWithHigh s.dec.len b = 0 then execLenHiZero b s
    else if (lenWithHigh s.dec.len b).toNat ≤ Config.cap then execLenHiOk b s
    else execLenHiOver b s
  | .readPayload =>
    if s.dec.atCapacity then execPayGuard b s
    else if s.dec.atLast then execPayLast b s
    else execPayMore b s
  | .readChecksumA => execCka b s
  | .readChecksumB =>
    if !s.dec.checksumOk b then execCkbBad b s
    else if !s.dec.recognized then execCkbOther b s
    else if s.dec.tooShort then execCkbShort b s
    else execCkbRec b s

/-- `run(s, bytes)` (R15): one step per byte, left to right; the outputs are listed in `sink`. -/
def feed : List Byte → State → Result
  | [], s => .next s
  | b :: rest, s =>
    match consumeByte b s with
    | .next t => feed rest t
    | .fault f => .fault f
    | .refused r => .refused r

end Sys2Proof.Machine
end

