-- ==== Sys2Proof/Machine/Envelope.lean ====
section
/-! DEFINITION. The frame envelope (spec/30_encoding.md R70 to R73, R88) and the two frame-level rows of
the opcode table, FRAME.HEADER and FRAME.RECOGNIZED (log 3). -/

namespace Sys2Proof.Machine

/-- The bytes the checksum of a frame covers (R16, R72): class, id, length, payload. -/
def frameBody (c i : Byte) (len : Half) (p : List Byte) : List Byte :=
  [c, i, lowByte len, highByte len] ++ p

/-- `FRAME!(c, i, L, p)` (R88): the declared length is `len` whatever the payload's length. -/
def frameForced (c i : Byte) (len : Half) (p : List Byte) : List Byte :=
  [Config.sync1, Config.sync2] ++ frameBody c i len p ++
    [(ckOf (frameBody c i len p)).1, (ckOf (frameBody c i len p)).2]

/-- `FRAME(c, i, p)` (R72), for payloads of at most 65535 bytes. -/
def frame (c i : Byte) (p : List Byte) : List Byte :=
  frameForced c i (BitVec.ofNat 16 p.length) p

/-- A well-formed frame (R73). -/
def WellFormedFrame (bytes : List Byte) : Prop :=
  ∃ c i p, p.length ≤ 65535 ∧ bytes = frame c i p

/-- An acceptable frame (R73). -/
def AcceptableFrame (bytes : List Byte) : Prop :=
  ∃ c i p, p.length ≤ Config.cap ∧ bytes = frame c i p

/-- A recognized frame (R73). -/
def RecognizedFrame (bytes : List Byte) : Prop :=
  ∃ p, Config.minLen ≤ p.length ∧ p.length ≤ Config.cap ∧
    bytes = frame Config.recClass Config.recId p

/-- FRAME.HEADER (R70): the six header bytes consumed one after another. -/
def execFrameHeader (c i l h : Byte) (s : State) : Result :=
  feed (headerBytes c i l h) s

/-- FRAME.RECOGNIZED (R71): the same with the recognized class and id. -/
def execFrameRecognized (l h : Byte) (s : State) : Result :=
  feed (headerBytes Config.recClass Config.recId l h) s

end Sys2Proof.Machine
end

