-- ==== Sys2Proof/Machine/Dispatch.lean ====
section
/-! DEFINITION. One arm per constructor of Instr. -/

namespace Sys2Proof.Machine

def exec (i : Instr) (s : State) : Host.Outcome State Fault Refusal :=
  match i with
  | .s1Hit => Sys2Proof.Machine.execS1Hit s
  | .s1Miss b => Sys2Proof.Machine.execS1Miss b s
  | .s2Hit => Sys2Proof.Machine.execS2Hit s
  | .s2Miss b => Sys2Proof.Machine.execS2Miss b s
  | .cls b => Sys2Proof.Machine.execCls b s
  | .ident b => Sys2Proof.Machine.execIdent b s
  | .lenLo b => Sys2Proof.Machine.execLenLo b s
  | .lenHiZero b => Sys2Proof.Machine.execLenHiZero b s
  | .lenHiOk b => Sys2Proof.Machine.execLenHiOk b s
  | .lenHiOver b => Sys2Proof.Machine.execLenHiOver b s
  | .payGuard b => Sys2Proof.Machine.execPayGuard b s
  | .payLast b => Sys2Proof.Machine.execPayLast b s
  | .payMore b => Sys2Proof.Machine.execPayMore b s
  | .cka b => Sys2Proof.Machine.execCka b s
  | .ckbRec b => Sys2Proof.Machine.execCkbRec b s
  | .ckbShort b => Sys2Proof.Machine.execCkbShort b s
  | .ckbOther b => Sys2Proof.Machine.execCkbOther b s
  | .ckbBad b => Sys2Proof.Machine.execCkbBad b s
  | .frameHeader c k l h => Sys2Proof.Machine.execFrameHeader c k l h s
  | .frameRecognized l h => Sys2Proof.Machine.execFrameRecognized l h s

end Sys2Proof.Machine
end

