-- ==== Sys2Proof/Machine/Step.lean ====
section
/-! DEFINITION. One step of the machine: one cycle of the host interface (spec/10_state.md R30,
spec/00_scope.md R15), or one header unit (log 3). -/

namespace Sys2Proof.Machine

/-- One step: hard reset first (R230), an idle cycle holds the state (R30), a byte performs exactly one
operation (R80, R81), a header unit its six (log 3). -/
def step (s : State) : Host.Outcome State Fault Refusal :=
  match fetch s with
  | (.hardReset, t) => .next t.hardReset
  | (.idle, t) => .next t.idleCycle
  | (.byte b, t) => exec (decodeByte t.dec b) t
  | (.header c i l h, t) => exec (headerInstr c i l h) t

/-- `s` about to run the instruction of a table word (log 10): a byte comes next, in the state whose row
reads it; a header comes next as one unit. A word of no instruction leaves `s` as it is. -/
def State.withFetchWord (s : State) (nbits w : Nat) : State :=
  match decodeTableWord nbits w with
  | none => s
  | some (.frameHeader c i l h) => { s with source := .header c i l h :: s.source }
  | some (.frameRecognized l h) =>
    { s with source := .header Config.recClass Config.recId l h :: s.source }
  | some _ =>
    { s with
      dec := { s.dec with st := wordState (BitVec.ofNat 8 w) }
      source := .cycle false true (BitVec.ofNat 8 w) :: s.source }

end Sys2Proof.Machine
end

