-- ==== Sys2Proof/Machine/CommandEncoder.lean ====
section
/-! DEFINITION. The Command Encoder (spec/43_command_encoder.md R180, R181): a read-only table of two
well-formed frames whose class, id, length and payload are open (log 11). No state, no input. -/

namespace Sys2Proof.Machine

/-- The payload of a command string. -/
def commandPayload (x : Config.Command) : List Byte :=
  (List.range (Config.commandLen x).toNat).map (Config.commandByte x)

/-- The command string: a frame with its checksum embedded as the final two bytes (R181). -/
def commandBytes (x : Config.Command) : List Byte :=
  frame (Config.commandClass x) (Config.commandId x) (commandPayload x)

end Sys2Proof.Machine
end

