-- ==== Sys2Proof/Machine/Convert.lean ====
section
/-! DEFINITION. The Message Record's signed readings (spec/42_record_extract.md R150) and unit
conversions (R160): exact rationals, nothing rounded (log 15). They hold no state and are outside a step. -/

namespace Sys2Proof.Machine

/-- Nanosecond offset, signed (R150). -/
def Record.nanoSigned (r : Record) : Int := signed32 r.nano

/-- `lat / 10^7` degrees. -/
def Record.latDeg (r : Record) : ℚ := (signed32 r.lat : ℚ) / (Config.degDiv : ℚ)

/-- `lon / 10^7` degrees. -/
def Record.lonDeg (r : Record) : ℚ := (signed32 r.lon : ℚ) / (Config.degDiv : ℚ)

/-- `h_msl / 1000` metres. -/
def Record.hMslM (r : Record) : ℚ := (signed32 r.hMsl : ℚ) / (Config.mmDiv : ℚ)

/-- `h_acc / 1000` metres, unsigned. -/
def Record.hAccM (r : Record) : ℚ := (r.hAcc.toNat : ℚ) / (Config.mmDiv : ℚ)

/-- `v_acc / 1000` metres, unsigned. -/
def Record.vAccM (r : Record) : ℚ := (r.vAcc.toNat : ℚ) / (Config.mmDiv : ℚ)

/-- `g_speed / 1000` metres per second. -/
def Record.gSpeedMps (r : Record) : ℚ := (signed32 r.gSpeed : ℚ) / (Config.mmDiv : ℚ)

end Sys2Proof.Machine
end

