-- ==== Sys2Proof/Safety.lean ====
section
/-! DEFINITION. What claims about the machine are said in: runs of steps and byte streams
(spec/00_scope.md R15), the invariant of reachable states (spec/10_state.md R43), the terminal operations
(R41), the allowed state transitions (spec/40_sync_header.md R111, spec/41_payload_checksum.md R139), and
which registers of a frame in flight can still matter (spec/10_state.md R22, R29). -/

namespace Sys2Proof.Machine

/-- `k` steps. A run is safe when it never faults or refuses. -/
def steps : Nat → State → Result
  | 0, s => .next s
  | k + 1, s =>
    match step s with
    | .next t => steps k t
    | .fault f => .fault f
    | .refused r => .refused r

/-- A byte stream as the host presents it: one cycle a byte. -/
def stream (bytes : List Byte) : List Stimulus :=
  bytes.map (fun b => .cycle false true b)

/-- The buffer that holds `bytes` from address `a` up, over `m`. -/
def Memory.storeAll : Nat → List Byte → Memory → Memory
  | _, [], m => m
  | a, b :: rest, m => Memory.storeAll (a + 1) rest (m.writeByte a b)

/-- The buffer whose first bytes are the payload `p` and whose other bytes are 0 (R138). -/
def Memory.ofPayload (p : List Byte) : Memory :=
  Memory.storeAll 0 p []

/-- The first `idx` bytes of the buffer. -/
def Decoder.payload (d : Decoder) : List Byte :=
  (List.range d.idx.toNat).map d.pay.readByte

/-- The body bytes consumed since the last S2.HIT, as the registers hold them (R43 (I4)). -/
def Decoder.body (d : Decoder) : List Byte :=
  match d.st with
  | .awaitSync1 => []
  | .awaitSync2 => []
  | .readClass => []
  | .readId => [d.cls]
  | .readLengthLow => [d.cls, d.id]
  | .readLengthHigh => [d.cls, d.id, lowByte d.len]
  | .readPayload => [d.cls, d.id, lowByte d.len, highByte d.len] ++ d.payload
  | .readChecksumA => [d.cls, d.id, lowByte d.len, highByte d.len] ++ d.payload
  | .readChecksumB => [d.cls, d.id, lowByte d.len, highByte d.len] ++ d.payload

/-- The invariant of reachable states: R43 (I1) to (I7), with what has not arrived yet still 0 and the
buffer in canonical form. -/
structure Decoder.Inv (d : Decoder) : Prop where
  /-- (I1) -/
  search : d.st = .awaitSync1 → d = Decoder.initial
  /-- (I2) -/
  sync2 : d.st = .awaitSync2 → d = { Decoder.initial with st := .awaitSync2 }
  /-- (I3) -/
  start : d.st = .readClass → d = { Decoder.initial with st := .readClass }
  /-- (I4), the checksum part -/
  checksum : (d.cka, d.ckb) = ckOf d.body
  /-- (I4), what has not arrived yet -/
  noId : d.st = .readId → d.id = 0 ∧ d.len = 0
  noLen : d.st = .readLengthLow → d.len = 0
  noHigh : d.st = .readLengthHigh → highByte d.len = 0
  noPayload : d.st = .readId ∨ d.st = .readLengthLow ∨ d.st = .readLengthHigh → d.idx = 0 ∧ d.pay = []
  /-- (I5) -/
  filling : d.st = .readPayload →
    1 ≤ d.len.toNat ∧ d.len.toNat ≤ Config.cap ∧ d.idx.toNat < d.len.toNat
  /-- (I6) -/
  filled : d.st = .readChecksumA ∨ d.st = .readChecksumB →
    d.idx.toNat = d.len.toNat ∧ d.len.toNat ≤ Config.cap
  /-- (I7) -/
  index : d.idx.toNat ≤ Config.cap
  clear : ∀ a, d.idx.toNat ≤ a → d.pay.readByte a = unlistedByte
  rxCkb : d.rxCkb = 0
  rxCka : d.st ≠ .readChecksumB → d.rxCka = 0
  canonical : d.pay.wf = true

/-- A register state some byte sequence leads to from reset (R43). -/
def Reachable (d : Decoder) : Prop :=
  ∃ bytes t, feed bytes State.reset = .next t ∧ t.dec = d

/-- The operations that end a frame attempt by the full reset (R41). -/
def isTerminal : Instr → Bool
  | .s1Hit => false
  | .s1Miss _ => false
  | .s2Hit => false
  | .s2Miss _ => true
  | .cls _ => false
  | .ident _ => false
  | .lenLo _ => false
  | .lenHiZero _ => false
  | .lenHiOk _ => false
  | .lenHiOver _ => true
  | .payGuard _ => true
  | .payLast _ => false
  | .payMore _ => false
  | .cka _ => false
  | .ckbRec _ => true
  | .ckbShort _ => true
  | .ckbOther _ => true
  | .ckbBad _ => true
  | .frameHeader _ _ _ _ => false
  | .frameRecognized _ _ => false

/-- The states one byte can lead to (R111, R139). -/
def StateName.successors : StateName → List StateName
  | .awaitSync1 => [.awaitSync1, .awaitSync2]
  | .awaitSync2 => [.awaitSync1, .readClass]
  | .readClass => [.readId]
  | .readId => [.readLengthLow]
  | .readLengthLow => [.readLengthHigh]
  | .readLengthHigh => [.readChecksumA, .readPayload, .awaitSync1]
  | .readPayload => [.awaitSync1, .readChecksumA, .readPayload]
  | .readChecksumA => [.readChecksumB]
  | .readChecksumB => [.awaitSync1]

/-- The place of a state in the order of R21, from 0. -/
def StateName.rank : StateName → Nat
  | .awaitSync1 => 0
  | .awaitSync2 => 1
  | .readClass => 2
  | .readId => 3
  | .readLengthLow => 4
  | .readLengthHigh => 5
  | .readPayload => 6
  | .readChecksumA => 7
  | .readChecksumB => 8

/-- Two register states that agree on every register the frame attempt in flight has written and can
still read (R22); all else may be stale and different (R29). -/
structure SameFrame (d e : Decoder) : Prop where
  st : d.st = e.st
  cka : 2 ≤ d.st.rank → d.cka = e.cka
  ckb : 2 ≤ d.st.rank → d.ckb = e.ckb
  cls : 3 ≤ d.st.rank → d.cls = e.cls
  id : 4 ≤ d.st.rank → d.id = e.id
  len : 5 ≤ d.st.rank → d.len = e.len
  idx : d.st = .readPayload → d.idx = e.idx
  rxCka : d.st = .readChecksumB → d.rxCka = e.rxCka
  filling : d.st = .readPayload → ∀ a, a < d.idx.toNat → d.pay.readByte a = e.pay.readByte a
  filled : 7 ≤ d.st.rank → ∀ a, a < d.len.toNat → d.pay.readByte a = e.pay.readByte a

/-- What the last byte of an acceptable frame puts out (R138). -/
def frameOutput (c i : Byte) (p : List Byte) : Output :=
  if c = Config.recClass ∧ i = Config.recId then
    if Config.minLen ≤ p.length then ⟨some (decodeRecord (Memory.ofPayload p)), false, none⟩
    else ⟨none, false, some .shortPayloadError⟩
  else ⟨none, false, some .swallowed⟩

/-- The length of the run of `SYNC1` bytes a byte list ends in (R248). -/
def trailingSync1 (bytes : List Byte) : Nat :=
  (bytes.reverse.takeWhile (fun b => b == Config.sync1)).length

end Sys2Proof.Machine
end

