-- ==== Sys2Proof/Certificates/Slice0/Obligations.lean ====
section
/-! DEFINITION. The statements about the decoder. In every one the fields `source`, `sink` and an output's
`label` are the model's own (logs 1, 2); `⟨none, false, none⟩` is the output `(None, 0)`. -/

open Sys2Proof Sys2Proof.Machine

/-! The sync search -/

/-- S1.HIT (R100): selected in AwaitSync1 by 0xB5 exactly, and writes `st` only. -/
def Obligations.S1HitAdvancesToAwaitSync2 : Prop :=
  (∀ (d : Decoder) (b : Byte), decodeByte d b = .s1Hit ↔ d.st = .awaitSync1 ∧ b = 0xB5) ∧
  ∀ s : State, exec .s1Hit s = .next { s with
    dec := { s.dec with st := .awaitSync2 }
    out := ⟨none, false, none⟩
    sink := s.sink ++ [⟨none, false, none⟩] }

/-- S1.MISS (R101): selected in AwaitSync1 by every other byte, and writes no register; FramingError. -/
def Obligations.S1MissChangesNoRegister : Prop :=
  (∀ (d : Decoder) (b x : Byte),
    decodeByte d b = .s1Miss x ↔ x = b ∧ d.st = .awaitSync1 ∧ b ≠ 0xB5) ∧
  ∀ (b : Byte) (s : State), exec (.s1Miss b) s = .next { s with
    out := ⟨none, false, some .framingError⟩
    sink := s.sink ++ [⟨none, false, some .framingError⟩] }

/-- S2.HIT (R102): selected in AwaitSync2 by 0x62 exactly; zeroes the accumulators. -/
def Obligations.S2HitZeroesChecksum : Prop :=
  (∀ (d : Decoder) (b : Byte), decodeByte d b = .s2Hit ↔ d.st = .awaitSync2 ∧ b = 0x62) ∧
  ∀ s : State, exec .s2Hit s = .next { s with
    dec := { s.dec with cka := 0, ckb := 0, st := .readClass }
    out := ⟨none, false, none⟩
    sink := s.sink ++ [⟨none, false, none⟩] }

/-- S2.MISS: selected in AwaitSync2 by every other byte, 0xB5 among them, which is discarded by the full
reset. That the reset also zeroes the accumulators and the buffer is the spec's decision D5 (log 6). -/
def Obligations.S2MissStrictReset : Prop :=
  (∀ (d : Decoder) (b x : Byte),
    decodeByte d b = .s2Miss x ↔ x = b ∧ d.st = .awaitSync2 ∧ b ≠ 0x62) ∧
  ∀ (b : Byte) (s : State), exec (.s2Miss b) s = .next { s with
    dec := Decoder.initial
    out := ⟨none, false, some .framingError⟩
    sink := s.sink ++ [⟨none, false, some .framingError⟩] }

/-! The frame header -/

/-- CLS (R104): stores and folds the class byte; the new accumulator A goes into B. -/
def Obligations.ClsStoresAndFolds : Prop :=
  (∀ (d : Decoder) (b x : Byte), decodeByte d b = .cls x ↔ x = b ∧ d.st = .readClass) ∧
  ∀ (b : Byte) (s : State), exec (.cls b) s = .next { s with
    dec := { s.dec with
      cls := b, cka := s.dec.cka + b, ckb := s.dec.ckb + (s.dec.cka + b), st := .readId }
    out := ⟨none, false, none⟩
    sink := s.sink ++ [⟨none, false, none⟩] }

/-- ID (R105): stores and folds the id byte. -/
def Obligations.IdStoresAndFolds : Prop :=
  (∀ (d : Decoder) (b x : Byte), decodeByte d b = .ident x ↔ x = b ∧ d.st = .readId) ∧
  ∀ (b : Byte) (s : State), exec (.ident b) s = .next { s with
    dec := { s.dec with
      id := b, cka := s.dec.cka + b, ckb := s.dec.ckb + (s.dec.cka + b), st := .readLengthLow }
    out := ⟨none, false, none⟩
    sink := s.sink ++ [⟨none, false, none⟩] }

/-- LENLO: the length becomes the byte, its high half cleared by the spec's decision D8 (log 20). -/
def Obligations.LenLoSetsLowByte : Prop :=
  (∀ (d : Decoder) (b x : Byte), decodeByte d b = .lenLo x ↔ x = b ∧ d.st = .readLengthLow) ∧
  ∀ (b : Byte) (s : State), exec (.lenLo b) s = .next { s with
    dec := { s.dec with
      len := BitVec.ofNat 16 b.toNat, cka := s.dec.cka + b, ckb := s.dec.ckb + (s.dec.cka + b)
      st := .readLengthHigh }
    out := ⟨none, false, none⟩
    sink := s.sink ++ [⟨none, false, none⟩] }

/-- LENHI.ZERO (R108): both length bytes 0; the payload is skipped and `idx` is not written. -/
def Obligations.LenHiZeroSkipsPayload : Prop :=
  (∀ (d : Decoder) (b x : Byte), decodeByte d b = .lenHiZero x ↔
    x = b ∧ d.st = .readLengthHigh ∧ b = 0 ∧ d.len.toNat % 256 = 0) ∧
  ∀ (b : Byte) (s : State), exec (.lenHiZero b) s = .next { s with
    dec := { s.dec with
      len := BitVec.ofNat 16 (s.dec.len.toNat % 256 + 256 * b.toNat)
      cka := s.dec.cka + b, ckb := s.dec.ckb + (s.dec.cka + b), st := .readChecksumA }
    out := ⟨none, false, none⟩
    sink := s.sink ++ [⟨none, false, none⟩] }

/-- LENHI.OK (R109): a length of 1 to 256; the write index starts from 0 and the buffer is not cleared. -/
def Obligations.LenHiOkEntersPayload : Prop :=
  (∀ (d : Decoder) (b x : Byte), decodeByte d b = .lenHiOk x ↔
    x = b ∧ d.st = .readLengthHigh ∧ 1 ≤ d.len.toNat % 256 + 256 * b.toNat ∧
      d.len.toNat % 256 + 256 * b.toNat ≤ 256) ∧
  ∀ (b : Byte) (s : State), exec (.lenHiOk b) s = .next { s with
    dec := { s.dec with
      len := BitVec.ofNat 16 (s.dec.len.toNat % 256 + 256 * b.toNat)
      cka := s.dec.cka + b, ckb := s.dec.ckb + (s.dec.cka + b), idx := 0, st := .readPayload }
    out := ⟨none, false, none⟩
    sink := s.sink ++ [⟨none, false, none⟩] }

/-- LENHI.OVER: a length above 256; the frame is dropped at once by the full reset, with no signal.
That the reset also zeroes the accumulators and the buffer is the spec's decision D5 (log 6). -/
def Obligations.LenHiOverDropsFrame : Prop :=
  (∀ (d : Decoder) (b x : Byte), decodeByte d b = .lenHiOver x ↔
    x = b ∧ d.st = .readLengthHigh ∧ 256 < d.len.toNat % 256 + 256 * b.toNat) ∧
  ∀ (b : Byte) (s : State), exec (.lenHiOver b) s = .next { s with
    dec := Decoder.initial
    out := ⟨none, false, some .oversizeError⟩
    sink := s.sink ++ [⟨none, false, some .oversizeError⟩] }

/-! The payload -/

/-- PAY.MORE: the byte at `idx` is stored and every other address reads as before; fold; count on. The
test by equality is the spec's decision D7 (log 16). Where no address is left the operation, which no
byte selects there, stops by name (log 5). -/
def Obligations.PayMoreStoresOneByte : Prop :=
  (∀ (d : Decoder) (b x : Byte), decodeByte d b = .payMore x ↔
    x = b ∧ d.st = .readPayload ∧ d.idx.toNat < 256 ∧ d.idx.toNat + 1 ≠ d.len.toNat) ∧
  (∀ (b : Byte) (s : State), s.dec.pay.wf = true → s.dec.idx.toNat < 256 →
    ∃ t, exec (.payMore b) s = .next t ∧
      t = { s with
        dec := { s.dec with
          pay := t.dec.pay, cka := s.dec.cka + b, ckb := s.dec.ckb + (s.dec.cka + b)
          idx := BitVec.ofNat 9 (s.dec.idx.toNat + 1) }
        out := ⟨none, false, none⟩
        sink := s.sink ++ [⟨none, false, none⟩] } ∧
      ∀ a, t.dec.pay.readByte a = if a = s.dec.idx.toNat then b else s.dec.pay.readByte a) ∧
  ∀ (b : Byte) (s : State), 256 ≤ s.dec.idx.toNat →
    exec (.payMore b) s = .fault .payloadOutOfBounds

/-- PAY.LAST: the same, and the payload is complete. The test by equality is the spec's decision D7
(log 16). Where no address is left the operation, which no byte selects there, stops by name (log 5). -/
def Obligations.PayLastCompletesPayload : Prop :=
  (∀ (d : Decoder) (b x : Byte), decodeByte d b = .payLast x ↔
    x = b ∧ d.st = .readPayload ∧ d.idx.toNat < 256 ∧ d.idx.toNat + 1 = d.len.toNat) ∧
  (∀ (b : Byte) (s : State), s.dec.pay.wf = true → s.dec.idx.toNat < 256 →
    ∃ t, exec (.payLast b) s = .next t ∧
      t = { s with
        dec := { s.dec with
          pay := t.dec.pay, cka := s.dec.cka + b, ckb := s.dec.ckb + (s.dec.cka + b)
          idx := BitVec.ofNat 9 (s.dec.idx.toNat + 1), st := .readChecksumA }
        out := ⟨none, false, none⟩
        sink := s.sink ++ [⟨none, false, none⟩] } ∧
      ∀ a, t.dec.pay.readByte a = if a = s.dec.idx.toNat then b else s.dec.pay.readByte a) ∧
  ∀ (b : Byte) (s : State), 256 ≤ s.dec.idx.toNat →
    exec (.payLast b) s = .fault .payloadOutOfBounds

/-- PAY.GUARD: at capacity the byte is discarded by the full reset: no write, no fold. That the reset also
zeroes the accumulators and the buffer is the spec's decision D5 (log 6). -/
def Obligations.PayGuardResetsAtCapacity : Prop :=
  (∀ (d : Decoder) (b x : Byte), decodeByte d b = .payGuard x ↔
    x = b ∧ d.st = .readPayload ∧ 256 ≤ d.idx.toNat) ∧
  ∀ (b : Byte) (s : State), exec (.payGuard b) s = .next { s with
    dec := Decoder.initial
    out := ⟨none, false, some .guardTrip⟩
    sink := s.sink ++ [⟨none, false, some .guardTrip⟩] }

/-! The received checksum -/

/-- CKA (R130): the byte is stored, neither folded nor compared. -/
def Obligations.CkaStoresWithoutFolding : Prop :=
  (∀ (d : Decoder) (b x : Byte), decodeByte d b = .cka x ↔ x = b ∧ d.st = .readChecksumA) ∧
  ∀ (b : Byte) (s : State), exec (.cka b) s = .next { s with
    dec := { s.dec with rxCka := b, st := .readChecksumB }
    out := ⟨none, false, none⟩
    sink := s.sink ++ [⟨none, false, none⟩] }

/-- CKB.REC: a matching recognized frame of at least 84 bytes puts out the Record read from the buffer as
it was before the reset. That the reset also zeroes the accumulators and the buffer is D5 (log 6). -/
def Obligations.CkbRecYieldsRecord : Prop :=
  (∀ (d : Decoder) (b x : Byte), decodeByte d b = .ckbRec x ↔
    x = b ∧ d.st = .readChecksumB ∧ d.rxCka = d.cka ∧ b = d.ckb ∧ d.cls = 0x01 ∧ d.id = 0x07 ∧
      84 ≤ d.len.toNat) ∧
  ∀ (b : Byte) (s : State), exec (.ckbRec b) s = .next { s with
    dec := Decoder.initial
    out := ⟨some (decodeRecord s.dec.pay), false, none⟩
    sink := s.sink ++ [⟨some (decodeRecord s.dec.pay), false, none⟩] }

/-- CKB.SHORT: a matching recognized frame below 84 bytes is dropped with no signal. That the reset also
zeroes the accumulators and the buffer is the spec's decision D5 (log 6). -/
def Obligations.CkbShortDropsSilently : Prop :=
  (∀ (d : Decoder) (b x : Byte), decodeByte d b = .ckbShort x ↔
    x = b ∧ d.st = .readChecksumB ∧ d.rxCka = d.cka ∧ b = d.ckb ∧ d.cls = 0x01 ∧ d.id = 0x07 ∧
      d.len.toNat < 84) ∧
  ∀ (b : Byte) (s : State), exec (.ckbShort b) s = .next { s with
    dec := Decoder.initial
    out := ⟨none, false, some .shortPayloadError⟩
    sink := s.sink ++ [⟨none, false, some .shortPayloadError⟩] }

/-- CKB.OTHER: a matching frame of any other class/id is swallowed; a match of one of the two is no match.
That the reset also zeroes the accumulators and the buffer is the spec's decision D5 (log 6). -/
def Obligations.CkbOtherSwallowsFrame : Prop :=
  (∀ (d : Decoder) (b x : Byte), decodeByte d b = .ckbOther x ↔
    x = b ∧ d.st = .readChecksumB ∧ d.rxCka = d.cka ∧ b = d.ckb ∧ ¬(d.cls = 0x01 ∧ d.id = 0x07)) ∧
  ∀ (b : Byte) (s : State), exec (.ckbOther b) s = .next { s with
    dec := Decoder.initial
    out := ⟨none, false, some .swallowed⟩
    sink := s.sink ++ [⟨none, false, some .swallowed⟩] }

/-- CKB.BAD: a mismatch of either byte raises `ck_err`, whatever the class, id and length. That the
diagnostic is one such bit is the spec's decision D11 (log 2), that the reset also zeroes the accumulators
and the buffer is D5 (log 6). -/
def Obligations.CkbBadRaisesCkErr : Prop :=
  (∀ (d : Decoder) (b x : Byte), decodeByte d b = .ckbBad x ↔
    x = b ∧ d.st = .readChecksumB ∧ (d.rxCka ≠ d.cka ∨ b ≠ d.ckb)) ∧
  ∀ (b : Byte) (s : State), exec (.ckbBad b) s = .next { s with
    dec := Decoder.initial
    out := ⟨none, true, some .checksumError⟩
    sink := s.sink ++ [⟨none, true, some .checksumError⟩] }

/-! The frame-level rows -/

/-- FRAME.HEADER and FRAME.RECOGNIZED complete in every state, consume six bytes and are the six byte
steps of their header (the model's reading of the two rows, log 3). -/
def Obligations.FrameHeaderIsItsSixBytes : Prop :=
  (∀ (c i l h : Byte) (s : State), ∃ t, exec (.frameHeader c i l h) s = .next t ∧
    steps 6 { s with source := stream [0xB5, 0x62, c, i, l, h] ++ s.source } = .next t ∧
    t.source = s.source ∧ t.sink.length = s.sink.length + 6) ∧
  ∀ (l h : Byte) (s : State), ∃ t, exec (.frameRecognized l h) s = .next t ∧
    steps 6 { s with source := stream [0xB5, 0x62, 0x01, 0x07, l, h] ++ s.source } = .next t ∧
    t.source = s.source ∧ t.sink.length = s.sink.length + 6

/-- From the sync search a header leaves its class, id, length and checksum in the registers, whatever
stale values they held, and the decoder where its length says (the model's reading of the frame-level
rows, log 3; D5 for the oversized case, log 6). -/
def Obligations.FrameHeaderFromSyncSearch : Prop :=
  ∀ (c i l h : Byte) (s : State), s.dec.st = .awaitSync1 →
    ∃ t, exec (.frameHeader c i l h) s = .next t ∧
      (c = 0x01 → i = 0x07 → exec (.frameRecognized l h) s = .next t) ∧
      t.source = s.source ∧
      (256 < l.toNat + 256 * h.toNat →
        t.dec = Decoder.initial ∧ t.out = ⟨none, false, some .oversizeError⟩) ∧
      (l.toNat + 256 * h.toNat ≤ 256 →
        t.dec = { s.dec with
          st := if l.toNat + 256 * h.toNat = 0 then .readChecksumA else .readPayload
          cls := c, id := i, len := BitVec.ofNat 16 (l.toNat + 256 * h.toNat)
          idx := if l.toNat + 256 * h.toNat = 0 then s.dec.idx else 0
          cka := c + i + l + h
          ckb := c + (c + i) + (c + i + l) + (c + i + l + h) } ∧
        t.out = ⟨none, false, none⟩) ∧
      t.sink = s.sink ++ List.replicate 5 ⟨none, false, none⟩ ++ [t.out]

/-! The step -/

/-- A step runs the decoded operation: a presented byte performs the one operation the decoder reads from
it, a header unit the row the header decoder reads from its six bytes (logs 1, 3). -/
def Obligations.StepRunsDecodedInstruction : Prop :=
  (∀ (s : State) (b : Byte) (rest : List Stimulus) (i : Instr) (more : List Byte),
    s.source = .cycle false true b :: rest → decode s.dec (b :: more) = .ok (i, more) →
    step s = exec i { s with source := rest }) ∧
  ∀ (s : State) (c j l h : Byte) (rest : List Stimulus) (i : Instr) (more : List Byte),
    s.source = .header c j l h :: rest →
    decodeHeader ([0xB5, 0x62, c, j, l, h] ++ more) = .ok (i, more) →
    step s = exec i { s with source := rest }

/-- Hard reset: in a cycle with `rst = 1` the registers take their reset values, the outputs are 0, and the
byte presented is lost. The reset input is the spec's decision D3 (log 8), and that `cka`, `ckb` and the
buffer become 0 is its decision D4 (logs 6, 12). -/
def Obligations.HardResetBeatsEverything : Prop :=
  ∀ (s : State) (v : Bool) (b : Byte) (rest : List Stimulus), s.source = .cycle true v b :: rest →
    step s = .next { s with
      dec := ⟨.awaitSync1, 0, 0, 0, 0, 0, 0, 0, 0, []⟩
      out := ⟨none, false, none⟩
      source := rest }

/-- With no byte presented the state is held and the outputs are 0. The ports are the spec's decision D1,
and that an exhausted source presents nothing is the model's (log 1). -/
def Obligations.IdleHoldsState : Prop :=
  (∀ (s : State) (b : Byte) (rest : List Stimulus), s.source = .cycle false false b :: rest →
    step s = .next { s with out := ⟨none, false, none⟩, source := rest }) ∧
  ∀ s : State, s.source = [] → step s = .next { s with out := ⟨none, false, none⟩ }

/-- No state and no input stops the machine: every step answers a next state, and takes one entry of the
source, which is the model's (log 1). -/
def Obligations.EveryStepCompletes : Prop :=
  ∀ s : State, ∃ t, step s = .next t ∧ t.source = s.source.tail

/-- Exactly one row of the operation map selects, in every state on every byte, and it is the one the
dispatch takes: the table of R80 and the dispatch of R82 agree. -/
def Obligations.ExactlyOneRowSelects : Prop :=
  ∀ (d : Decoder) (b : Byte) (i : Instr), selects d b i = true ↔ decodeByte d b = i

/-- A byte stream fed by the machine's steps is `run` of R15, the fold of R82's dispatch. The source that
presents the stream is the model's (log 1). -/
def Obligations.StreamStepsAreRun : Prop :=
  ∀ (bytes : List Byte) (s : State),
    steps bytes.length { s with source := stream bytes ++ s.source } = feed bytes s

/-! Encoding -/

/-- Words written out from the operation map and the header patterns decode to their rows. That a 01/07
header is FRAME.RECOGNIZED, although FRAME.HEADER's pattern matches it too, is the model's choice (log 3),
and how a 48-bit word is read is its convention (log 10). -/
def Obligations.WrittenOutWordsDecode : Prop :=
  decodeByte Decoder.initial 0b10110101#8 = .s1Hit ∧
  decodeByte { Decoder.initial with st := .awaitSync2 } 0b01100010#8 = .s2Hit ∧
  decodeByte { Decoder.initial with st := .awaitSync2 } 0b10110101#8 = .s2Miss 0xB5 ∧
  decodeByte { Decoder.initial with st := .readLengthHigh, len := 0x5C } 0x00 = .lenHiOk 0x00 ∧
  decodeByte { Decoder.initial with st := .readLengthHigh, len := 0x01 } 0x01 = .lenHiOver 0x01 ∧
  decodeByte { Decoder.initial with st := .readPayload, len := 256, idx := 255 } 0xFF = .payLast 0xFF ∧
  decodeByte { Decoder.initial with st := .readChecksumB, rxCka := 0x0E, cka := 0x0E, ckb := 0x34 } 0x35 =
    .ckbBad 0x35 ∧
  decodeTableWord 48 0b101101010110001000001010000001000101110000000000 =
    some (.frameHeader 0x0A 0x04 0x5C 0x00) ∧
  decodeTableWord 48 0b101101010110001000000001000001110101110000000000 =
    some (.frameRecognized 0x5C 0x00)

/-- Decode and encode agree: a well-formed operation's bytes decode back to it in every state that selects
it, a frame-level row's in the header decoder, and the bytes after are left. That FRAME.HEADER of class 01,
id 07 is not well formed, its bytes being FRAME.RECOGNIZED's, is the model's choice (log 3). -/
def Obligations.DecodeOfEncode : Prop :=
  ∀ (i : Instr) (rest : List Byte), i.wf = true →
    (i.row = none → decodeHeader (encode i ++ rest) = .ok (i, rest)) ∧
    ∀ (d : Decoder) (b : Byte), selects d b i = true → decode d (encode i ++ rest) = .ok (i, rest)

/-- Encode and decode agree the other way: what either decoder answers is well formed and its bytes with
the bytes left are the bytes read. That a 01/07 header is answered as FRAME.RECOGNIZED, which makes the
answer well formed, is the model's choice (log 3). -/
def Obligations.EncodeOfDecode : Prop :=
  ∀ (bytes rest : List Byte) (i : Instr),
    (∀ d : Decoder, decode d bytes = .ok (i, rest) → i.wf = true ∧ encode i ++ rest = bytes) ∧
    (decodeHeader bytes = .ok (i, rest) → i.wf = true ∧ encode i ++ rest = bytes)

/-- An operation is well formed exactly when some register state selects it on some byte. -/
def Obligations.WellFormedExactlySelectable : Prop :=
  ∀ i : Instr, i.row ≠ none → (i.wf = true ↔ ∃ (d : Decoder) (b : Byte), decodeByte d b = i)

/-- A table word runs as the very next step: the byte in the state whose row reads it, the header as one
unit (the model's convention, log 10). -/
def Obligations.FetchWordRunsNext : Prop :=
  (∀ (s : State) (b : Byte) (i : Instr), decodeTableWord 8 b.toNat = some i →
    step (s.withFetchWord 8 b.toNat) =
      exec i { s with dec := { s.dec with st := if b = 0x62 then .awaitSync2 else .awaitSync1 } }) ∧
  ∀ (s : State) (c j l h : Byte), ∃ i,
    decodeTableWord 48
      (((((0xB5 * 256 + 0x62) * 256 + c.toNat) * 256 + j.toNat) * 256 + l.toNat) * 256 + h.toNat) =
        some i ∧
    encode i = [0xB5, 0x62, c, j, l, h] ∧
    step (s.withFetchWord 48
      (((((0xB5 * 256 + 0x62) * 256 + c.toNat) * 256 + j.toNat) * 256 + l.toNat) * 256 + h.toNat)) =
        exec i s

/-! Reset and invariants -/

/-- Reset: AwaitSync1, every register and every buffer byte 0, outputs 0, and the invariant holds. The
values of `cka`, `ckb` and the buffer are the spec's decision D4 (logs 6, 12). -/
def Obligations.ResetIsInitialState : Prop :=
  State.reset.dec.st = .awaitSync1 ∧ State.reset.dec.cls = 0 ∧ State.reset.dec.id = 0 ∧
  State.reset.dec.len = 0 ∧ State.reset.dec.idx = 0 ∧ State.reset.dec.rxCka = 0 ∧
  State.reset.dec.rxCkb = 0 ∧ State.reset.dec.cka = 0 ∧ State.reset.dec.ckb = 0 ∧
  (∀ a, State.reset.dec.pay.readByte a = 0) ∧
  State.reset.out = ⟨none, false, none⟩ ∧ State.reset.dec.Inv

/-- Every step keeps the invariant of reachable states, from every state that meets it. That the accumulators
and the buffer are 0 outside a frame rests on D5 (log 6), the buffer's list form on log 13. -/
def Obligations.StepKeepsInvariant : Prop :=
  ∀ s t : State, s.dec.Inv → step s = .next t → t.dec.Inv

/-- The invariant is exact: the register states some byte sequence leads to from reset are those that meet
it. That the accumulators and the buffer are 0 outside a frame rests on D4 and D5 (log 6), the buffer's list
form on log 13. -/
def Obligations.ReachableExactlyInvariant : Prop :=
  ∀ d : Decoder, Reachable d ↔ d.Inv

/-- Every step keeps the buffer's canonical form, the model's (log 13), also from states no byte sequence
reaches. -/
def Obligations.StepKeepsBufferCanonical : Prop :=
  ∀ s t : State, s.dec.pay.wf = true → step s = .next t → t.dec.pay.wf = true

/-! Whole-machine rules -/

/-- A Record exactly when the byte completes a matching recognized frame of at least 84 bytes, and then the
one the buffer holds. -/
def Obligations.RecordExactlyWhenFrameCompletes : Prop :=
  ∀ (s t : State) (b : Byte) (rest : List Stimulus) (r : Record),
    s.source = .cycle false true b :: rest → step s = .next t →
    (t.out.record = some r ↔
      s.dec.st = .readChecksumB ∧ s.dec.rxCka = s.dec.cka ∧ b = s.dec.ckb ∧ s.dec.cls = 0x01 ∧
      s.dec.id = 0x07 ∧ 84 ≤ s.dec.len.toNat ∧ r = decodeRecord s.dec.pay)

/-- `ck_err` exactly at a mismatching second checksum byte, and never in a cycle without a byte. That the
diagnostic is one such bit is the spec's decision D11, and the list of outputs is the model's (logs 2, 8). -/
def Obligations.CkErrExactlyOnMismatch : Prop :=
  (∀ (s t : State) (b : Byte) (rest : List Stimulus),
    s.source = .cycle false true b :: rest → step s = .next t →
    (t.out.ckErr = true ↔
      s.dec.st = .readChecksumB ∧ (s.dec.rxCka ≠ s.dec.cka ∨ b ≠ s.dec.ckb))) ∧
  ∀ (s t : State) (r v : Bool) (b : Byte) (rest : List Stimulus),
    s.source = .cycle r v b :: rest → (r = true ∨ v = false) → step s = .next t →
    t.out.ckErr = false ∧ t.out.record = none ∧ t.sink = s.sink

/-- Which step raises which error class or event; no step raises two. Their names are the spec's decision
D23 and the labels are the model's (log 2). -/
def Obligations.ErrorClassesByCause : Prop :=
  ∀ (s t : State) (b : Byte) (rest : List Stimulus),
    s.source = .cycle false true b :: rest → step s = .next t →
    (t.out.label = some .framingError ↔
      (s.dec.st = .awaitSync1 ∧ b ≠ 0xB5) ∨ (s.dec.st = .awaitSync2 ∧ b ≠ 0x62)) ∧
    (t.out.label = some .oversizeError ↔
      s.dec.st = .readLengthHigh ∧ 256 < s.dec.len.toNat % 256 + 256 * b.toNat) ∧
    (t.out.label = some .checksumError ↔
      s.dec.st = .readChecksumB ∧ (s.dec.rxCka ≠ s.dec.cka ∨ b ≠ s.dec.ckb)) ∧
    (t.out.label = some .shortPayloadError ↔
      s.dec.st = .readChecksumB ∧ s.dec.rxCka = s.dec.cka ∧ b = s.dec.ckb ∧
      s.dec.cls = 0x01 ∧ s.dec.id = 0x07 ∧ s.dec.len.toNat < 84) ∧
    (t.out.label = some .swallowed ↔
      s.dec.st = .readChecksumB ∧ s.dec.rxCka = s.dec.cka ∧ b = s.dec.ckb ∧
      ¬(s.dec.cls = 0x01 ∧ s.dec.id = 0x07)) ∧
    (t.out.label = some .guardTrip ↔ s.dec.st = .readPayload ∧ 256 ≤ s.dec.idx.toNat)

/-- No step puts out both a Record and `ck_err`, whatever it consumes. The list of outputs is the model's
(log 2). -/
def Obligations.NeverRecordAndCkErr : Prop :=
  ∀ s t : State, step s = .next t →
    ¬(t.out.record.isSome = true ∧ t.out.ckErr = true) ∧
    ∀ o ∈ t.sink.drop s.sink.length, ¬(o.record.isSome = true ∧ o.ckErr = true)

/-- A byte moves the state register only as the two summaries of control transfer list, and the one consumed
in ReadChecksumB leaves the initial state. That this zeroes the accumulators and the buffer is the spec's
decision D5 (log 6). -/
def Obligations.StateMovesOnlyToSuccessors : Prop :=
  ∀ (s t : State) (b : Byte) (rest : List Stimulus),
    s.source = .cycle false true b :: rest → step s = .next t →
    t.dec.st ∈ s.dec.st.successors ∧ (s.dec.st = .readChecksumB → t.dec = Decoder.initial)

/-- The terminal operations complete in every state and leave the initial state, and the byte itself is
consumed. That the reset also zeroes the accumulators and the buffer is D5 (log 6). -/
def Obligations.TerminalOperationsResetFully : Prop :=
  ∀ (i : Instr) (s : State), isTerminal i = true →
    ∃ o, exec i s = .next { s with dec := Decoder.initial, out := o, sink := s.sink ++ [o] }

/-- A byte changes the buffer only at `idx`, only in ReadPayload below the capacity, or by the full reset,
whose contents are the spec's decision D5 (log 6). -/
def Obligations.BufferWrittenOnlyAtIndex : Prop :=
  ∀ (s t : State) (b : Byte) (rest : List Stimulus), s.dec.pay.wf = true →
    s.source = .cycle false true b :: rest → step s = .next t →
    t.dec = Decoder.initial ∨
    ∀ a, t.dec.pay.readByte a =
      if s.dec.st = .readPayload ∧ s.dec.idx.toNat < 256 ∧ a = s.dec.idx.toNat then b
      else s.dec.pay.readByte a

/-! Frames and streams -/

/-- The frame theorem: from the initial state an acceptable frame puts out nothing but at its last byte,
which yields the Record of its payload, or the reason there is none, and leaves the initial state, whose
zeros are D5 (log 6). -/
def Obligations.AcceptableFrameDecodes : Prop :=
  ∀ (s : State) (c i : Byte) (p : List Byte) (rest : List Stimulus),
    s.dec = Decoder.initial → p.length ≤ 256 → s.source = stream (frame c i p) ++ rest →
    steps (p.length + 8) s = .next {
      dec := Decoder.initial
      out := frameOutput c i p
      source := rest
      sink := s.sink ++ List.replicate (p.length + 7) ⟨none, false, none⟩ ++ [frameOutput c i p] }

/-- Back-to-back acceptable frames yield exactly the Records of their recognized members, in order, and no
`ck_err`, and end in the initial state, whose zeros are D5 (log 6). -/
def Obligations.BackToBackFramesDecode : Prop :=
  ∀ (frames : List (Byte × Byte × List Byte)) (s : State) (rest : List Stimulus),
    s.dec = Decoder.initial → (∀ f ∈ frames, f.2.2.length ≤ 256) →
    s.source = stream (frames.flatMap fun f => frame f.1 f.2.1 f.2.2) ++ rest →
    ∃ t, steps (frames.flatMap fun f => frame f.1 f.2.1 f.2.2).length s = .next t ∧
      t.dec = Decoder.initial ∧ t.source = rest ∧
      t.sink.filterMap Output.record =
        s.sink.filterMap Output.record ++
          frames.filterMap (fun f => if f.1 = 0x01 ∧ f.2.1 = 0x07 ∧ 84 ≤ f.2.2.length then
            some (decodeRecord (Memory.ofPayload f.2.2)) else none) ∧
      ∀ o ∈ t.sink.drop s.sink.length, o.ckErr = false

/-- An oversized header is dropped at its sixth byte, the bytes after it are scanned and not skipped, and a
frame that follows bytes without 0xB5 decodes. The initial state's zeros are D5 (log 6). -/
def Obligations.FrameAfterOversizedHeaderDecodes : Prop :=
  ∀ (s : State) (c i : Byte) (len : Half) (noise : List Byte) (c' i' : Byte) (p : List Byte)
    (rest : List Stimulus),
    s.dec = Decoder.initial → 256 < len.toNat → (∀ x ∈ noise, x ≠ 0xB5) → p.length ≤ 256 →
    s.source = stream ([0xB5, 0x62, c, i, lowByte len, highByte len] ++ noise ++ frame c' i' p) ++ rest →
    steps (6 + noise.length + (p.length + 8)) s = .next {
      dec := Decoder.initial
      out := frameOutput c' i' p
      source := rest
      sink := s.sink ++ List.replicate 5 ⟨none, false, none⟩ ++ [⟨none, false, some .oversizeError⟩] ++
        List.replicate noise.length ⟨none, false, some .framingError⟩ ++
        List.replicate (p.length + 7) ⟨none, false, none⟩ ++ [frameOutput c' i' p] }

/-- A payload byte changed without its checksum is caught: `ck_err` (D11, log 2) at the last byte and no
Record at any. The initial state's zeros are D5 (log 6). -/
def Obligations.FlippedPayloadByteIsCaught : Prop :=
  ∀ (s : State) (c i : Byte) (before after : List Byte) (x y : Byte) (rest : List Stimulus),
    s.dec = Decoder.initial → before.length + 1 + after.length ≤ 256 → x ≠ y →
    s.source = stream ([0xB5, 0x62] ++
      frameBody c i (BitVec.ofNat 16 (before.length + 1 + after.length)) (before ++ [y] ++ after) ++
      [(ckOf (frameBody c i (BitVec.ofNat 16 (before.length + 1 + after.length))
          (before ++ [x] ++ after))).1,
       (ckOf (frameBody c i (BitVec.ofNat 16 (before.length + 1 + after.length))
          (before ++ [x] ++ after))).2]) ++ rest →
    steps (before.length + 1 + after.length + 8) s = .next {
      dec := Decoder.initial
      out := ⟨none, true, some .checksumError⟩
      source := rest
      sink := s.sink ++ List.replicate (before.length + 1 + after.length + 7) ⟨none, false, none⟩ ++
        [⟨none, true, some .checksumError⟩] }

/-- The sync search: without 0xB5 followed by 0x62 nothing is put out, and the end is the initial state, but
AwaitSync2 after an odd run of 0xB5 at the end. The initial state's zeros are D5 (log 6). -/
def Obligations.NoSyncPairNoOutput : Prop :=
  ∀ (bytes : List Byte) (s : State) (rest : List Stimulus),
    s.dec = Decoder.initial → ¬[(0xB5 : Byte), 0x62] <:+: bytes → s.source = stream bytes ++ rest →
    ∃ t, steps bytes.length s = .next t ∧ t.source = rest ∧
      t.dec = (if trailingSync1 bytes % 2 = 1 then { Decoder.initial with st := .awaitSync2 }
        else Decoder.initial) ∧
      t.sink.length = s.sink.length + bytes.length ∧
      ∀ o ∈ t.sink.drop s.sink.length, o.record = none ∧ o.ckErr = false

/-- A run of `k` bytes 0xB5 and then 0x62 syncs exactly when `k` is odd. The initial state's zeros are D5
(log 6). -/
def Obligations.OddRunOfSync1Syncs : Prop :=
  ∀ (k : Nat) (s : State), s.dec = Decoder.initial →
    s.source = stream (List.replicate k 0xB5 ++ [0x62]) →
    ∃ t, steps (k + 1) s = .next t ∧
      t.dec = if k % 2 = 1 then { Decoder.initial with st := .readClass } else Decoder.initial

/-- From every reachable state, among any 264 bytes some byte returns the decoder to the initial state, whose
zeros are D5 (log 6). -/
def Obligations.ReturnsToSearchWithin264Bytes : Prop :=
  ∀ (bytes : List Byte) (s : State) (rest : List Stimulus), s.dec.Inv → 264 ≤ bytes.length →
    s.source = stream bytes ++ rest →
    ∃ n t, 1 ≤ n ∧ n ≤ 264 ∧ steps n s = .next t ∧ t.dec = Decoder.initial

/-- Stale values cannot be observed: two machines with canonical buffers (log 13) that agree on what the
frame in flight has written, and are presented the same cycles, put out the same for ever. -/
def Obligations.StaleValuesAreUnobservable : Prop :=
  ∀ (n : Nat) (s t : State), s.dec.pay.wf = true → t.dec.pay.wf = true →
    SameFrame s.dec t.dec → s.out = t.out → s.source = t.source →
    s.sink = t.sink →
    ∃ s' t', steps n s = .next s' ∧ steps n t = .next t' ∧
      SameFrame s'.dec t'.dec ∧ s'.out = t'.out ∧ s'.source = t'.source ∧ s'.sink = t'.sink

/-! The checksum -/

/-- `fold` (R120): A adds the byte, B adds the new A, both modulo 256, and nothing else is written. -/
def Obligations.FoldAddsNewAccumulator : Prop :=
  ∀ (d : Decoder) (b : Byte),
    (d.fold b).cka.toNat = (d.cka.toNat + b.toNat) % 256 ∧
    (d.fold b).ckb.toNat = (d.ckb.toNat + (d.cka.toNat + b.toNat) % 256) % 256 ∧
    d.fold b = { d with cka := (d.fold b).cka, ckb := (d.fold b).ckb }

/-- `ck_of` (R74): the recurrence and the closed form. -/
def Obligations.ChecksumRecurrenceAndClosedForm : Prop :=
  ckOf [] = (0, 0) ∧
  (∀ (xs : List Byte) (x : Byte),
    (ckOf (xs ++ [x])).1.toNat = ((ckOf xs).1.toNat + x.toNat) % 256 ∧
    (ckOf (xs ++ [x])).2.toNat = ((ckOf xs).2.toNat + (ckOf (xs ++ [x])).1.toNat) % 256) ∧
  ∀ xs : List Byte,
    (ckOf xs).1.toNat = (xs.map BitVec.toNat).sum % 256 ∧
    (ckOf xs).2.toNat =
      ((List.range xs.length).map fun k => (xs.length - k) * (xs.getD k 0).toNat).sum % 256

/-- Changing one body byte changes accumulator A by the same amount, so the checksum no longer matches. -/
def Obligations.SingleByteErrorChangesChecksum : Prop :=
  ∀ (before after : List Byte) (x y : Byte),
    (ckOf (before ++ [y] ++ after)).1 - (ckOf (before ++ [x] ++ after)).1 = y - x ∧
    (x ≠ y → ckOf (before ++ [x] ++ after) ≠ ckOf (before ++ [y] ++ after))

/-! The Record and its conversions -/

/-- Every field of the Record is the little-endian number at its payload offset, read unsigned or in two's
complement. That the year and the one-byte fields are unsigned is the spec's decision D9 (log 19). -/
def Obligations.RecordFieldsAtOffsets : Prop :=
  ∀ m : Memory,
    let u8 := fun a => (m.readByte a).toNat
    let u32 := fun a => u8 a + 256 * u8 (a + 1) + 65536 * u8 (a + 2) + 16777216 * u8 (a + 3)
    let s32 := fun a : Nat => if u32 a < 2147483648 then (u32 a : Int) else (u32 a : Int) - 4294967296
    (decodeRecord m).year.toNat = u8 4 + 256 * u8 5 ∧ (decodeRecord m).month.toNat = u8 6 ∧
    (decodeRecord m).day.toNat = u8 7 ∧ (decodeRecord m).hour.toNat = u8 8 ∧
    (decodeRecord m).minute.toNat = u8 9 ∧ (decodeRecord m).second.toNat = u8 10 ∧
    signed32 (decodeRecord m).nano = s32 16 ∧ (decodeRecord m).numSv.toNat = u8 23 ∧
    signed32 (decodeRecord m).lon = s32 24 ∧ signed32 (decodeRecord m).lat = s32 28 ∧
    signed32 (decodeRecord m).hMsl = s32 36 ∧ (decodeRecord m).hAcc.toNat = u32 40 ∧
    (decodeRecord m).vAcc.toNat = u32 44 ∧ signed32 (decodeRecord m).gSpeed = s32 60

/-- The validity rule (R156): fix type at offset 20 at least 3, unsigned, and bit 0 of the flags at 21. That
the fix type is unsigned and bit 0 is the least significant bit are the spec's decisions D9 and D25
(log 19). -/
def Obligations.ValidExactlyWhenFixAndFlag : Prop :=
  ∀ m : Memory, (decodeRecord m).valid = true ↔
    3 ≤ (m.readByte 20).toNat ∧ (m.readByte 21).toNat % 2 = 1

/-- Nothing else is extracted: buffers that agree on the sixteen fields' 38 bytes give equal Records. -/
def Obligations.UnnamedBytesDoNotMatter : Prop :=
  ∀ m n : Memory,
    (∀ a ∈ [4, 5, 6, 7, 8, 9, 10, 16, 17, 18, 19, 20, 21, 23, 24, 25, 26, 27, 28, 29, 30, 31, 36, 37, 38,
        39, 40, 41, 42, 43, 44, 45, 46, 47, 60, 61, 62, 63], m.readByte a = n.readByte a) →
    decodeRecord m = decodeRecord n

/-- The six conversions are exact: multiplied back they give the raw integer, so they lose nothing. That
they are rationals is the spec's decision D12 (log 15). -/
def Obligations.ConversionsAreExact : Prop :=
  ∀ r : Record,
    r.latDeg * 10000000 = (r.lat.toInt : ℚ) ∧ r.lonDeg * 10000000 = (r.lon.toInt : ℚ) ∧
    r.hMslM * 1000 = (r.hMsl.toInt : ℚ) ∧ r.hAccM * 1000 = (r.hAcc.toNat : ℚ) ∧
    r.vAccM * 1000 = (r.vAcc.toNat : ℚ) ∧ r.gSpeedMps * 1000 = (r.gSpeed.toInt : ℚ)

/-! The Command Encoder -/

/-- Each command string (R181) is a well-formed frame, and its last two bytes are the checksum of its bytes
from the third to the third last. -/
def Obligations.CommandsAreWellFormedFrames : Prop :=
  ∀ x : Config.Command, WellFormedFrame (commandBytes x) ∧
    ∃ body a b, commandBytes x = [0xB5, 0x62] ++ body ++ [a, b] ∧ (a, b) = ckOf body

/-- A command string fed back to the decoder is processed as any frame, whatever its open bytes (log 11):
ended without `ck_err` in the initial state at its last byte, or dropped at its sixth where its payload is
above 256 bytes; `ck_err` is 0 up to there, and nothing is said of an oversized string's bytes after its
sixth. The initial state's zeros are D5 (log 6). -/
def Obligations.LoopedBackCommandIsAnyFrame : Prop :=
  ∀ (x : Config.Command) (s : State) (rest : List Stimulus),
    s.dec = Decoder.initial → s.source = stream (commandBytes x) ++ rest →
    ∃ n t, n = (if (commandPayload x).length ≤ 256 then (commandBytes x).length else 6) ∧
      steps n s = .next t ∧ t.dec = Decoder.initial ∧
      t.source = stream ((commandBytes x).drop n) ++ rest ∧
      t.out = (if (commandPayload x).length ≤ 256 then
        frameOutput (Config.commandClass x) (Config.commandId x) (commandPayload x)
        else ⟨none, false, some .oversizeError⟩) ∧
      ∀ o ∈ t.sink.drop s.sink.length, o.ckErr = false
end

