-- ==== Sys2Proof/Laws/Checksum.lean ====
section
/-! SUPPORT. The checksum as a left fold: one more byte, a list in two parts. -/

namespace Sys2Proof.Machine

@[simp] theorem ckOf_nil : ckOf [] = (0, 0) := rfl

@[simp] theorem ckOf_snoc (xs : List Byte) (x : Byte) : ckOf (xs ++ [x]) = ckStep (ckOf xs) x := by
  simp [ckOf]

theorem foldl_ckStep_append (ab : Byte × Byte) (xs ys : List Byte) :
    (xs ++ ys).foldl ckStep ab = ys.foldl ckStep (xs.foldl ckStep ab) :=
  List.foldl_append

theorem ckOf_append (xs ys : List Byte) : ckOf (xs ++ ys) = ys.foldl ckStep (ckOf xs) := by
  simp [ckOf]

end Sys2Proof.Machine
end

