-- ==== Sys2Proof/Laws/Memory.lean ====
section
/-! SUPPORT. The payload buffer: read after write, the canonical form is kept, and canonical buffers
that read alike are equal. -/

namespace Sys2Proof.Machine.Memory

@[simp] theorem readByte_nil (a : Nat) : Memory.readByte [] a = unlistedByte := rfl

theorem wf_cons {k : Nat} {v : Byte} {m : Memory} :
    Memory.wf ((k, v) :: m) = true ↔
      k < Config.cap ∧ v ≠ unlistedByte ∧ (∀ c ∈ m, k < c.1) ∧ Memory.wf m = true := by
  simp [Memory.wf, and_assoc]

/-- An address below every listed one reads as unlisted. -/
theorem readByte_below {m : Memory} {a : Nat} (h : ∀ c ∈ m, a < c.1) :
    m.readByte a = unlistedByte := by
  induction m with
  | nil => rfl
  | cons c m ih =>
    obtain ⟨k, v⟩ := c
    have hk : a < k := h (k, v) (by simp)
    have : k ≠ a := by omega
    simp only [Memory.readByte, this, if_false]
    exact ih fun c hc => h c (by simp [hc])

theorem readByte_cell_append (a x : Nat) (b : Byte) (m : Memory) :
    Memory.readByte (Memory.cell a b ++ m) x =
      if a = x then (if b = unlistedByte then m.readByte x else b) else m.readByte x := by
  unfold Memory.cell
  split <;> split <;> simp_all [Memory.readByte]

/-- Read after write (R12, R52): the written address reads the byte, every other as before. -/
theorem readByte_writeByte {m : Memory} (h : m.wf = true) (a x : Nat) (b : Byte) :
    (m.writeByte a b).readByte x = if x = a then b else m.readByte x := by
  induction m with
  | nil =>
    have := readByte_cell_append a x b []
    simp only [List.append_nil] at this
    rw [Memory.writeByte, this]
    by_cases hx : x = a
    · subst hx; by_cases hb : b = unlistedByte <;> simp [hb]
    · simp [hx, Ne.symm hx]
  | cons c m ih =>
    obtain ⟨k, v⟩ := c
    obtain ⟨-, -, hlt, hm⟩ := wf_cons.mp h
    have below (y : Nat) (hy : y ≤ k) : Memory.readByte m y = unlistedByte :=
      readByte_below fun c hc => lt_of_le_of_lt hy (hlt c hc)
    unfold Memory.writeByte
    split
    · rename_i hak
      rw [readByte_cell_append]
      by_cases hx : x = a
      · subst hx
        have : k ≠ x := by omega
        by_cases hb : b = unlistedByte
        · simp [hb, Memory.readByte, this, below x (by omega)]
        · simp [hb]
      · simp [hx, Ne.symm hx]
    · split
      · rename_i _ hak
        subst hak
        rw [readByte_cell_append]
        by_cases hx : x = a
        · subst hx
          by_cases hb : b = unlistedByte
          · simp [hb, below x (le_refl _)]
          · simp [hb]
        · simp [hx, Ne.symm hx, Memory.readByte]
      · rename_i h1 h2
        have : k ≠ a := by omega
        by_cases hx : k = x
        · subst hx; simp [Memory.readByte, this]
        · simp [Memory.readByte, hx, ih hm]

theorem mem_cell {a : Nat} {b : Byte} {c : Host.Cell} (h : c ∈ Memory.cell a b) : c = (a, b) := by
  unfold Memory.cell at h
  split at h <;> simp_all

theorem mem_writeByte {m : Memory} {a : Nat} {b : Byte} {c : Host.Cell}
    (h : c ∈ m.writeByte a b) : c = (a, b) ∨ c ∈ m := by
  induction m with
  | nil => exact .inl (mem_cell h)
  | cons kv m ih =>
    obtain ⟨k, v⟩ := kv
    unfold Memory.writeByte at h
    split at h
    · rcases List.mem_append.mp h with h | h
      · exact .inl (mem_cell h)
      · exact .inr h
    · split at h
      · rcases List.mem_append.mp h with h | h
        · exact .inl (mem_cell h)
        · exact .inr (List.mem_cons_of_mem _ h)
      · rcases List.mem_cons.mp h with h | h
        · exact .inr (by simp [h])
        · exact (ih h).imp id (List.mem_cons_of_mem _)

theorem wf_cell_append {a : Nat} {b : Byte} {m : Memory} (ha : a < Config.cap) (hm : m.wf = true)
    (hlt : ∀ c ∈ m, a < c.1) : Memory.wf (Memory.cell a b ++ m) = true := by
  unfold Memory.cell
  split
  · exact hm
  · exact wf_cons.mpr ⟨ha, ‹_›, hlt, hm⟩

/-- A store below `CAP` keeps the canonical form. -/
theorem writeByte_wf {m : Memory} (h : m.wf = true) {a : Nat} (ha : a < Config.cap) (b : Byte) :
    (m.writeByte a b).wf = true := by
  induction m with
  | nil =>
    have := wf_cell_append (b := b) ha (m := []) rfl (by simp)
    simpa [Memory.writeByte] using this
  | cons c m ih =>
    obtain ⟨k, v⟩ := c
    obtain ⟨hk, hv, hlt, hm⟩ := wf_cons.mp h
    unfold Memory.writeByte
    split
    · exact wf_cell_append ha h fun c hc => by
        rcases List.mem_cons.mp hc with rfl | hc
        · assumption
        · exact lt_trans ‹_› (hlt c hc)
    · split
      · rename_i hak
        exact wf_cell_append ha hm fun c hc => hak ▸ hlt c hc
      · refine wf_cons.mpr ⟨hk, hv, fun c hc => ?_, ih hm⟩
        rcases mem_writeByte hc with rfl | hc
        · show k < a; omega
        · exact hlt c hc

/-- Canonical buffers that read alike are the same list. -/
theorem ext {m n : Memory} (hm : m.wf = true) (hn : n.wf = true)
    (h : ∀ a, m.readByte a = n.readByte a) : m = n := by
  induction m generalizing n with
  | nil =>
    cases n with
    | nil => rfl
    | cons c n =>
      obtain ⟨k, v⟩ := c
      have := h k
      simp only [Memory.readByte, if_true] at this
      exact absurd this.symm (wf_cons.mp hn).2.1
  | cons c m ih =>
    obtain ⟨k, v⟩ := c
    obtain ⟨-, hv, hlt, hm'⟩ := wf_cons.mp hm
    cases n with
    | nil =>
      have := h k
      simp only [Memory.readByte, if_true] at this
      exact absurd this hv
    | cons c n =>
      obtain ⟨j, w⟩ := c
      obtain ⟨-, hw, hlt', hn'⟩ := wf_cons.mp hn
      have hkj : k = j := by
        rcases lt_trichotomy k j with hl | he | hg
        · have := h k
          rw [readByte_below (m := (j, w) :: n) fun c hc => by
            rcases List.mem_cons.mp hc with rfl | hc
            · exact hl
            · exact lt_trans hl (hlt' c hc)] at this
          simp only [Memory.readByte, if_true] at this
          exact absurd this hv
        · exact he
        · have := h j
          rw [readByte_below (m := (k, v) :: m) fun c hc => by
            rcases List.mem_cons.mp hc with rfl | hc
            · exact hg
            · exact lt_trans hg (hlt c hc)] at this
          simp only [Memory.readByte, if_true] at this
          exact absurd this.symm hw
      subst hkj
      have hvw : v = w := by simpa [Memory.readByte] using h k
      subst hvw
      congr 1
      refine ih hm' hn' fun a => ?_
      by_cases ha : k = a
      · subst ha; rw [readByte_below hlt, readByte_below hlt']
      · simpa [Memory.readByte, ha] using h a

/-- An address from `CAP` up lists nothing. -/
theorem readByte_outside {m : Memory} (h : m.wf = true) {a : Nat} (ha : Config.cap ≤ a) :
    m.readByte a = unlistedByte := by
  induction m with
  | nil => rfl
  | cons c m ih =>
    obtain ⟨k, v⟩ := c
    obtain ⟨hk, -, -, hm⟩ := wf_cons.mp h
    have : k ≠ a := by omega
    simpa [Memory.readByte, this] using ih hm

end Sys2Proof.Machine.Memory
end

