-- ==== Sys2Proof/Laws/Operands.lean ====
section
/-! SUPPORT. The assembled length and the little-endian fields as numbers. -/

namespace Sys2Proof.Machine

theorem lowByte_toNat (v : Half) : (lowByte v).toNat = v.toNat % 256 := by
  simp [lowByte]

theorem highByte_toNat (v : Half) : (highByte v).toNat = v.toNat / 256 := by
  have := v.isLt
  simp only [highByte, BitVec.extractLsb'_toNat, Nat.shiftRight_eq_div_pow]
  omega

theorem append_toNat (h l : Byte) : (h ++ l).toNat = l.toNat + 256 * h.toNat := by
  rw [BitVec.toNat_append, ← Nat.shiftLeft_add_eq_or_of_lt (by omega)]
  omega

theorem lenFromLow_toNat (b : Byte) : (lenFromLow b).toNat = b.toNat := by
  simp only [lenFromLow, BitVec.toNat_setWidth]
  omega

theorem lenWithHigh_toNat (len : Half) (b : Byte) :
    (lenWithHigh len b).toNat = len.toNat % 256 + 256 * b.toNat := by
  rw [← lowByte_toNat]
  exact append_toNat b (lowByte len)

@[simp] theorem lowByte_lenFromLow (b : Byte) : lowByte (lenFromLow b) = b := by
  apply BitVec.eq_of_toNat_eq
  rw [lowByte_toNat, lenFromLow_toNat]
  omega

@[simp] theorem highByte_lenFromLow (b : Byte) : highByte (lenFromLow b) = 0 := by
  apply BitVec.eq_of_toNat_eq
  rw [highByte_toNat, lenFromLow_toNat]
  have := b.isLt
  show b.toNat / 256 = 0
  omega

@[simp] theorem lowByte_lenWithHigh (len : Half) (b : Byte) :
    lowByte (lenWithHigh len b) = lowByte len := by
  apply BitVec.eq_of_toNat_eq
  rw [lowByte_toNat, lowByte_toNat, lenWithHigh_toNat]
  omega

@[simp] theorem highByte_lenWithHigh (len : Half) (b : Byte) : highByte (lenWithHigh len b) = b := by
  apply BitVec.eq_of_toNat_eq
  rw [highByte_toNat, lenWithHigh_toNat]
  omega

theorem lenWithHigh_lenFromLow (l h : Byte) : lenWithHigh (lenFromLow l) h = h ++ l := by
  simp [lenWithHigh]

theorem half_eq_bytes (v : Half) : highByte v ++ lowByte v = v := by
  apply BitVec.eq_of_toNat_eq
  rw [append_toNat, lowByte_toNat, highByte_toNat]
  omega

theorem read2_toNat (m : Memory) (a : Nat) :
    (m.read2 a).toNat = (m.readByte a).toNat + 256 * (m.readByte (a + 1)).toNat := by
  exact append_toNat _ _

theorem read4_toNat (m : Memory) (a : Nat) :
    (m.read4 a).toNat = (m.readByte a).toNat + 256 * (m.readByte (a + 1)).toNat +
      65536 * (m.readByte (a + 2)).toNat + 16777216 * (m.readByte (a + 3)).toNat := by
  simp only [Memory.read4, BitVec.toNat_append]
  rw [← Nat.shiftLeft_add_eq_or_of_lt (by omega), ← Nat.shiftLeft_add_eq_or_of_lt (by omega),
    ← Nat.shiftLeft_add_eq_or_of_lt (by omega)]
  omega

end Sys2Proof.Machine
end

