-- ==== Sys2Proof/Laws/State.lean ====
section
/-! SUPPORT. What each state update does to each field, and the parameters' values. -/

namespace Sys2Proof

namespace Config

theorem cap_eq : cap = 256 := rfl
theorem minLen_eq : minLen = 84 := rfl
theorem sync1_eq : sync1 = 0xB5 := rfl
theorem sync2_eq : sync2 = 0x62 := rfl
theorem recClass_eq : recClass = 0x01 := rfl
theorem recId_eq : recId = 0x07 := rfl

end Config

namespace Machine

variable (s : State) (d : Decoder) (o : Output) (b : Byte) (n : StateName) (e : StepLabel)

@[simp] theorem State.commit_dec : (s.commit d o).dec = d := rfl
@[simp] theorem State.commit_out : (s.commit d o).out = o := rfl
@[simp] theorem State.commit_source : (s.commit d o).source = s.source := rfl
@[simp] theorem State.commit_sink : (s.commit d o).sink = s.sink ++ [o] := rfl

@[simp] theorem State.idleCycle_dec : s.idleCycle.dec = s.dec := rfl
@[simp] theorem State.idleCycle_out : s.idleCycle.out = Output.silent := rfl
@[simp] theorem State.idleCycle_source : s.idleCycle.source = s.source := rfl
@[simp] theorem State.idleCycle_sink : s.idleCycle.sink = s.sink := rfl

@[simp] theorem State.hardReset_dec : s.hardReset.dec = Decoder.initial := rfl
@[simp] theorem State.hardReset_out : s.hardReset.out = Output.silent := rfl
@[simp] theorem State.hardReset_source : s.hardReset.source = s.source := rfl
@[simp] theorem State.hardReset_sink : s.hardReset.sink = s.sink := rfl

@[simp] theorem Decoder.fullReset_eq : d.fullReset = Decoder.initial := rfl
@[simp] theorem State.takeError_eq :
    s.takeError e d = s.commit Decoder.initial (Output.silent.raise e) := rfl

@[simp] theorem Output.raise_record : (o.raise e).record = o.record := rfl
@[simp] theorem Output.raise_label : (o.raise e).label = some e := rfl
@[simp] theorem Output.raise_ckErr : (o.raise e).ckErr = (o.ckErr || e == .checksumError) := rfl
@[simp] theorem Output.silent_record : Output.silent.record = none := rfl
@[simp] theorem Output.silent_ckErr : Output.silent.ckErr = false := rfl
@[simp] theorem Output.silent_label : Output.silent.label = none := rfl

@[simp] theorem Decoder.goto_st : (d.goto n).st = n := rfl
@[simp] theorem Decoder.goto_cls : (d.goto n).cls = d.cls := rfl
@[simp] theorem Decoder.goto_id : (d.goto n).id = d.id := rfl
@[simp] theorem Decoder.goto_len : (d.goto n).len = d.len := rfl
@[simp] theorem Decoder.goto_idx : (d.goto n).idx = d.idx := rfl
@[simp] theorem Decoder.goto_rxCka : (d.goto n).rxCka = d.rxCka := rfl
@[simp] theorem Decoder.goto_rxCkb : (d.goto n).rxCkb = d.rxCkb := rfl
@[simp] theorem Decoder.goto_cka : (d.goto n).cka = d.cka := rfl
@[simp] theorem Decoder.goto_ckb : (d.goto n).ckb = d.ckb := rfl
@[simp] theorem Decoder.goto_pay : (d.goto n).pay = d.pay := rfl

@[simp] theorem Decoder.fold_st : (d.fold b).st = d.st := rfl
@[simp] theorem Decoder.fold_cls : (d.fold b).cls = d.cls := rfl
@[simp] theorem Decoder.fold_id : (d.fold b).id = d.id := rfl
@[simp] theorem Decoder.fold_len : (d.fold b).len = d.len := rfl
@[simp] theorem Decoder.fold_idx : (d.fold b).idx = d.idx := rfl
@[simp] theorem Decoder.fold_rxCka : (d.fold b).rxCka = d.rxCka := rfl
@[simp] theorem Decoder.fold_rxCkb : (d.fold b).rxCkb = d.rxCkb := rfl
@[simp] theorem Decoder.fold_cka : (d.fold b).cka = (ckStep (d.cka, d.ckb) b).1 := rfl
@[simp] theorem Decoder.fold_ckb : (d.fold b).ckb = (ckStep (d.cka, d.ckb) b).2 := rfl
@[simp] theorem Decoder.fold_pay : (d.fold b).pay = d.pay := rfl

@[simp] theorem Decoder.initial_st : Decoder.initial.st = .awaitSync1 := rfl
@[simp] theorem Decoder.initial_cls : Decoder.initial.cls = 0 := rfl
@[simp] theorem Decoder.initial_id : Decoder.initial.id = 0 := rfl
@[simp] theorem Decoder.initial_len : Decoder.initial.len = 0 := rfl
@[simp] theorem Decoder.initial_idx : Decoder.initial.idx = 0 := rfl
@[simp] theorem Decoder.initial_rxCka : Decoder.initial.rxCka = 0 := rfl
@[simp] theorem Decoder.initial_rxCkb : Decoder.initial.rxCkb = 0 := rfl
@[simp] theorem Decoder.initial_cka : Decoder.initial.cka = 0 := rfl
@[simp] theorem Decoder.initial_ckb : Decoder.initial.ckb = 0 := rfl
@[simp] theorem Decoder.initial_pay : Decoder.initial.pay = [] := rfl

end Machine

end Sys2Proof
end

