-- ==== Sys2Proof/Laws/Ops.lean ====
section
/-! SUPPORT. What the shared operations can do: the store of a payload byte, and what a step takes from
the host. -/

namespace Sys2Proof.Machine

/-- A store succeeds exactly below the capacity, and then does all R126 says. -/
theorem Decoder.storePayload_eq_some {b : Byte} {d d' : Decoder} :
    d.storePayload b = some d' ↔
      d.idx.toNat < Config.cap ∧
      d' = { d with
        pay := d.pay.writeByte d.idx.toNat b, cka := (ckStep (d.cka, d.ckb) b).1
        ckb := (ckStep (d.cka, d.ckb) b).2, idx := d.idx + 1 } := by
  unfold Decoder.storePayload
  split
  · simp [*, eq_comm, Decoder.fold]
  · simp [*]

theorem Decoder.storePayload_of_lt {b : Byte} {d : Decoder} (h : d.idx.toNat < Config.cap) :
    d.storePayload b = some { d with
        pay := d.pay.writeByte d.idx.toNat b, cka := (ckStep (d.cka, d.ckb) b).1
        ckb := (ckStep (d.cka, d.ckb) b).2, idx := d.idx + 1 } :=
  Decoder.storePayload_eq_some.mpr ⟨h, rfl⟩

theorem Decoder.storePayload_of_atCapacity {b : Byte} {d : Decoder} (h : d.atCapacity = true) :
    d.storePayload b = none := by
  have : ¬ d.idx.toNat < Config.cap := by simpa [Decoder.atCapacity] using h
  simp [Decoder.storePayload, this]

/-- The count after a store does not wrap (R122). -/
theorem Decoder.idx_succ_toNat {d : Decoder} (h : d.idx.toNat < Config.cap) :
    (d.idx + 1).toNat = d.idx.toNat + 1 := by
  have : d.idx.toNat < 256 := h
  bv_omega

/-- Taking the next stimulus changes the source alone. -/
theorem fetch_frame (s : State) :
    (fetch s).2.dec = s.dec ∧ (fetch s).2.out = s.out ∧ (fetch s).2.sink = s.sink ∧
      (fetch s).2.source = s.source.tail := by
  unfold fetch
  split <;> simp_all

variable {s : State} {rest : List Stimulus}

theorem fetch_nil (h : s.source = []) : fetch s = (.idle, s) := by
  simp [fetch, h]

theorem fetch_hardReset {v : Bool} {b : Byte} (h : s.source = .cycle true v b :: rest) :
    fetch s = (.hardReset, { s with source := rest }) := by
  simp [fetch, h]

theorem fetch_idle {b : Byte} (h : s.source = .cycle false false b :: rest) :
    fetch s = (.idle, { s with source := rest }) := by
  simp [fetch, h]

theorem fetch_byte {b : Byte} (h : s.source = .cycle false true b :: rest) :
    fetch s = (.byte b, { s with source := rest }) := by
  simp [fetch, h]

theorem fetch_header {c i l h : Byte} (hs : s.source = .header c i l h :: rest) :
    fetch s = (.header c i l h, { s with source := rest }) := by
  simp [fetch, hs]

end Sys2Proof.Machine
end

