-- ==== Sys2Proof/Laws/PerInstr.lean ====
section
/-! SUPPORT. For every constructor: its encoding has the width of its table row (8 or 48 bits) and the
fixed bits of that row. -/

namespace Sys2Proof.Laws.RowWidth

/-- One byte that matches the row's pattern under its mask, or six bytes that start with the sync pair. -/
def Statement (i : Instr) : Prop :=
  match i.row with
  | some r => ∃ b, encode i = [b] ∧ b &&& r.mask = r.pattern
  | none => ∃ rest, encode i = [0xB5, 0x62] ++ rest ∧ rest.length = 4

theorem s1Hit : Statement .s1Hit := ⟨_, rfl, by decide⟩
theorem s1Miss (b : Byte) : Statement (.s1Miss b) := ⟨b, rfl, BitVec.and_zero⟩
theorem s2Hit : Statement .s2Hit := ⟨_, rfl, by decide⟩
theorem s2Miss (b : Byte) : Statement (.s2Miss b) := ⟨b, rfl, BitVec.and_zero⟩
theorem cls (b : Byte) : Statement (.cls b) := ⟨b, rfl, BitVec.and_zero⟩
theorem ident (b : Byte) : Statement (.ident b) := ⟨b, rfl, BitVec.and_zero⟩
theorem lenLo (b : Byte) : Statement (.lenLo b) := ⟨b, rfl, BitVec.and_zero⟩
theorem lenHiZero (b : Byte) : Statement (.lenHiZero b) := ⟨b, rfl, BitVec.and_zero⟩
theorem lenHiOk (b : Byte) : Statement (.lenHiOk b) := ⟨b, rfl, BitVec.and_zero⟩
theorem lenHiOver (b : Byte) : Statement (.lenHiOver b) := ⟨b, rfl, BitVec.and_zero⟩
theorem payGuard (b : Byte) : Statement (.payGuard b) := ⟨b, rfl, BitVec.and_zero⟩
theorem payLast (b : Byte) : Statement (.payLast b) := ⟨b, rfl, BitVec.and_zero⟩
theorem payMore (b : Byte) : Statement (.payMore b) := ⟨b, rfl, BitVec.and_zero⟩
theorem cka (b : Byte) : Statement (.cka b) := ⟨b, rfl, BitVec.and_zero⟩
theorem ckbRec (b : Byte) : Statement (.ckbRec b) := ⟨b, rfl, BitVec.and_zero⟩
theorem ckbShort (b : Byte) : Statement (.ckbShort b) := ⟨b, rfl, BitVec.and_zero⟩
theorem ckbOther (b : Byte) : Statement (.ckbOther b) := ⟨b, rfl, BitVec.and_zero⟩
theorem ckbBad (b : Byte) : Statement (.ckbBad b) := ⟨b, rfl, BitVec.and_zero⟩
theorem frameHeader (c i l h : Byte) : Statement (.frameHeader c i l h) := ⟨[c, i, l, h], rfl, rfl⟩
theorem frameRecognized (l h : Byte) : Statement (.frameRecognized l h) :=
  ⟨[Config.recClass, Config.recId, l, h], rfl, rfl⟩

end Sys2Proof.Laws.RowWidth
end

