-- ==== Sys2Proof/Laws/Step.lean ====
section
/-! SUPPORT. The step seen from its parts: decode and execute is R82's dispatch; one byte always ends in
one commit that depends on the registers and the byte alone; streams byte by byte. -/

namespace Sys2Proof.Machine

/-- R82's dispatch and decode-then-execute are the same. -/
theorem consumeByte_eq_exec (b : Byte) (s : State) : consumeByte b s = exec (decodeByte s.dec b) s := by
  unfold consumeByte decodeByte
  cases s.dec.st <;> dsimp only <;> (repeat' split) <;> rfl

/-- What a byte operation does to the registers, and its output: the one case list proofs split over.
No value where PAY.MORE or PAY.LAST has no room, and for the frame-level rows. -/
def effect (d : Decoder) : Instr → Option (Decoder × Output)
  | .s1Hit => some (d.goto .awaitSync2, .silent)
  | .s1Miss _ => some (d, Output.silent.raise .framingError)
  | .s2Hit => some ({ d with cka := 0, ckb := 0 }.goto .readClass, .silent)
  | .s2Miss _ => some (Decoder.initial, Output.silent.raise .framingError)
  | .cls b => some (({ d with cls := b }.fold b).goto .readId, .silent)
  | .ident b => some (({ d with id := b }.fold b).goto .readLengthLow, .silent)
  | .lenLo b => some (({ d with len := lenFromLow b }.fold b).goto .readLengthHigh, .silent)
  | .lenHiZero b => some ((d.takeLenHigh b).goto .readChecksumA, .silent)
  | .lenHiOk b => some ({ d.takeLenHigh b with idx := 0 }.goto .readPayload, .silent)
  | .lenHiOver _ => some (Decoder.initial, Output.silent.raise .oversizeError)
  | .payGuard _ => some (Decoder.initial, Output.silent.raise .guardTrip)
  | .payLast b => (d.storePayload b).map fun d' => (d'.goto .readChecksumA, .silent)
  | .payMore b => (d.storePayload b).map fun d' => (d', .silent)
  | .cka b => some ({ d with rxCka := b }.goto .readChecksumB, .silent)
  | .ckbRec _ => some (Decoder.initial, { Output.silent with record := some (decodeRecord d.pay) })
  | .ckbShort _ => some (Decoder.initial, Output.silent.raise .shortPayloadError)
  | .ckbOther _ => some (Decoder.initial, Output.silent.raise .swallowed)
  | .ckbBad _ => some (Decoder.initial, Output.silent.raise .checksumError)
  | .frameHeader _ _ _ _ => none
  | .frameRecognized _ _ => none

/-- Every byte operation commits its effect, or has none and faults. -/
theorem exec_of_row {i : Instr} (hi : i.row ≠ none) (s : State) :
    exec i s = match effect s.dec i with
      | some (d, o) => .next (s.commit d o)
      | none => .fault .payloadOutOfBounds := by
  cases i <;> first
    | rfl
    | exact absurd rfl hi
    | (simp only [exec, execPayLast, execPayMore, effect]; cases s.dec.storePayload _ <;> rfl)

theorem exec_of_effect {i : Instr} {s : State} {d : Decoder} {o : Output}
    (h : effect s.dec i = some (d, o)) : exec i s = .next (s.commit d o) := by
  have hi : i.row ≠ none := by cases i <;> simp_all [effect, Instr.row]
  rw [exec_of_row hi, h]

/-- The operation a byte selects has a row and an effect. -/
theorem effect_decodeByte (d : Decoder) (b : Byte) :
    ∃ d' o, effect d (decodeByte d b) = some (d', o) := by
  by_cases hp : d.st = .readPayload
  · by_cases hc : d.atCapacity = true
    · exact ⟨_, _, by simp only [decodeByte, hp, hc, if_true]; rfl⟩
    · have hlt : d.idx.toNat < Config.cap := by
        simpa [Decoder.atCapacity, Nat.not_le] using hc
      by_cases hl : d.atLast = true
      · exact ⟨_, _, by simp only [decodeByte, hp, hc, hl, if_true, effect,
          Decoder.storePayload_of_lt hlt]; rfl⟩
      · exact ⟨_, _, by simp only [decodeByte, hp, hc, hl, effect,
          Decoder.storePayload_of_lt hlt]; rfl⟩
  · have : ∀ i, decodeByte d b = i → (∃ x, i = .payLast x) ∨ (∃ x, i = .payMore x) ∨ i.row = none ∨
        ∃ p, effect d i = some p := by
      intro i _
      cases i <;> simp [effect, Instr.row]
    obtain ⟨x, hx⟩ | ⟨x, hx⟩ | hx | ⟨p, hx⟩ := this _ rfl
    all_goals first
      | exact ⟨p.1, p.2, hx⟩
      | (exfalso; unfold decodeByte at hx; cases hst : d.st <;> simp_all <;>
          (repeat' split at hx) <;> simp_all [Instr.row])

/-- The operation a byte selects ends in one commit, fixed by the registers and the byte. -/
theorem exec_decodeByte_commits (d : Decoder) (b : Byte) :
    ∃ d' o, ∀ s : State, s.dec = d → exec (decodeByte d b) s = .next (s.commit d' o) := by
  obtain ⟨d', o, h⟩ := effect_decodeByte d b
  exact ⟨d', o, fun s hs => exec_of_effect (by rw [hs]; exact h)⟩

theorem consumeByte_commits (d : Decoder) (b : Byte) :
    ∃ d' o, ∀ s : State, s.dec = d → consumeByte b s = .next (s.commit d' o) := by
  obtain ⟨d', o, h⟩ := exec_decodeByte_commits d b
  exact ⟨d', o, fun s hs => by rw [consumeByte_eq_exec, hs]; exact h s hs⟩

@[simp] theorem feed_nil (s : State) : feed [] s = .next s := rfl

theorem feed_cons_of_next {b : Byte} {bs : List Byte} {s t : State}
    (h : consumeByte b s = .next t) : feed (b :: bs) s = feed bs t := by
  simp [feed, h]

theorem feed_append {xs ys : List Byte} {s t : State} (h : feed xs s = .next t) :
    feed (xs ++ ys) s = feed ys t := by
  induction xs generalizing s with
  | nil => cases h; rfl
  | cons b xs ih =>
    obtain ⟨d', o, hc⟩ := consumeByte_commits s.dec b
    rw [feed_cons_of_next (hc s rfl)] at h
    rw [List.cons_append, feed_cons_of_next (hc s rfl)]
    exact ih h

@[simp] theorem stream_nil : stream [] = [] := rfl

@[simp] theorem stream_cons (b : Byte) (bs : List Byte) :
    stream (b :: bs) = .cycle false true b :: stream bs := rfl

@[simp] theorem stream_append (xs ys : List Byte) : stream (xs ++ ys) = stream xs ++ stream ys := by
  simp [stream]

theorem headerBytes_length (c i l h : Byte) : (headerBytes c i l h).length = 6 := rfl

theorem frame_length (c i : Byte) (p : List Byte) : (frame c i p).length = p.length + 8 := by
  simp [frame, frameForced, frameBody]

end Sys2Proof.Machine
end

