-- ==== Sys2Proof/Tests/Slice0.lean ====
section
/-! SUPPORT. Tests. Expected values are those of spec/95_test_vectors.md (the section stands beside each) or
worked out by hand from the rule named. At the end, for every statement with hypotheses, a witness: concrete
values that meet them together. -/

namespace Sys2Proof.Tests

open Sys2Proof Sys2Proof.Machine

/-- A machine with these registers, nothing presented and nothing put out. -/
def inDec (d : Decoder) : State := { State.reset with dec := d }

/-- The initial state but in another state name. -/
def at' (n : StateName) : Decoder := { Decoder.initial with st := n }

/-- The next state of an outcome. -/
def next? : Result → Option State
  | .next t => some t
  | .fault _ => none
  | .refused _ => none

/-- The registers after one operation. -/
def decAfter (i : Instr) (d : Decoder) : Option Decoder := (next? (exec i (inDec d))).map State.dec

/-- The output of one operation. -/
def outAfter (i : Instr) (d : Decoder) : Option Output := (next? (exec i (inDec d))).map State.out

/-! Well-formedness: an ill-formed term for each check (the guards of R80; R71 for the header) -/

theorem test_wf_refuses_s1Miss_of_sync1 : (Instr.s1Miss 0xB5).wf = false := by decide
theorem test_wf_refuses_s2Miss_of_sync2 : (Instr.s2Miss 0x62).wf = false := by decide
theorem test_wf_refuses_lenHiZero_of_1 : (Instr.lenHiZero 1).wf = false := by decide
theorem test_wf_refuses_lenHiOk_of_2 : (Instr.lenHiOk 2).wf = false := by decide
theorem test_wf_refuses_lenHiOver_of_0 : (Instr.lenHiOver 0).wf = false := by decide
theorem test_wf_refuses_header_of_recognized : (Instr.frameHeader 0x01 0x07 0x5C 0x00).wf = false := by
  decide
theorem test_wf_takes_s2Miss_of_sync1 : (Instr.s2Miss 0xB5).wf = true := by decide
theorem test_wf_takes_lenHiOk_of_1 : (Instr.lenHiOk 1).wf = true := by decide

/-- The parameters meet the constraints of R8. -/
theorem test_config_admissible : Config.admissible = true := by decide

/-! Decoding: one word written out for every row (95_test_vectors.md sections 2.2 to 2.5) -/

theorem test_decode_s1Hit : decodeByte (at' .awaitSync1) 0b10110101 = .s1Hit := by decide
theorem test_decode_s1Miss : decodeByte (at' .awaitSync1) 0b01100010 = .s1Miss 0x62 := by decide
theorem test_decode_s2Hit : decodeByte (at' .awaitSync2) 0b01100010 = .s2Hit := by decide
theorem test_decode_s2Miss : decodeByte (at' .awaitSync2) 0b10110101 = .s2Miss 0xB5 := by decide
theorem test_decode_cls : decodeByte (at' .readClass) 0b10110101 = .cls 0xB5 := by decide
theorem test_decode_ident : decodeByte (at' .readId) 0b01100010 = .ident 0x62 := by decide
theorem test_decode_lenLo : decodeByte (at' .readLengthLow) 0b01011100 = .lenLo 0x5C := by decide
theorem test_decode_lenHiZero : decodeByte (at' .readLengthHigh) 0b00000000 = .lenHiZero 0 := by decide
/-- length 256, the greatest accepted -/
theorem test_decode_lenHiOk : decodeByte (at' .readLengthHigh) 0b00000001 = .lenHiOk 1 := by decide
/-- length 257, the least refused -/
theorem test_decode_lenHiOver :
    decodeByte { at' .readLengthHigh with len := 0x0001 } 0b00000001 = .lenHiOver 1 := by decide
theorem test_decode_payGuard :
    decodeByte { at' .readPayload with len := 300, idx := 256 } 0b00010001 = .payGuard 0x11 := by decide
theorem test_decode_payLast :
    decodeByte { at' .readPayload with len := 256, idx := 255 } 0b11111111 = .payLast 0xFF := by decide
/-- the last row of 2.4: an unreachable state -/
theorem test_decode_payMore :
    decodeByte { at' .readPayload with len := 5, idx := 7 } 0b00010001 = .payMore 0x11 := by decide
theorem test_decode_cka : decodeByte (at' .readChecksumA) 0b10001110 = .cka 0x8E := by decide
theorem test_decode_ckbRec :
    decodeByte { at' .readChecksumB with
      cls := 1, id := 7, len := 84, rxCka := 0x5C, cka := 0x5C, ckb := 0xF1 } 0b11110001 =
    .ckbRec 0xF1 := by decide
theorem test_decode_ckbShort :
    decodeByte { at' .readChecksumB with
      cls := 1, id := 7, len := 83, rxCka := 0x5B, cka := 0x5B, ckb := 0x40 } 0b01000000 =
    .ckbShort 0x40 := by decide
/-- the class matches, the id does not -/
theorem test_decode_ckbOther :
    decodeByte { at' .readChecksumB with
      cls := 1, id := 6, len := 92, rxCka := 0x18, cka := 0x18, ckb := 0xC5 } 0b11000101 =
    .ckbOther 0xC5 := by decide
/-- checksum A wrong, B right -/
theorem test_decode_ckbBad :
    decodeByte { at' .readChecksumB with cls := 0x0A, id := 4, rxCka := 0x8E, cka := 0x0E, ckb := 0x34 }
      0b00110100 = .ckbBad 0x34 := by decide
/-- the header of the empty frame of class 0A, id 04, as bits 47 to 0 of the table's word -/
theorem test_decode_frameHeader :
    decodeTableWord 48 0b10110101_01100010_00001010_00000100_00000000_00000000 =
      some (.frameHeader 0x0A 0x04 0x00 0x00) := by decide
/-- the header of vector V1 -/
theorem test_decode_frameRecognized :
    decodeTableWord 48 0b10110101_01100010_00000001_00000111_01011100_00000000 =
      some (.frameRecognized 0x5C 0x00) := by decide

/-! Refusals by name -/

theorem test_decode_refuses_no_byte : decode Decoder.initial [] = .error .noByte := rfl
theorem test_decode_refuses_short_header : decodeHeader [0xB5, 0x62, 1, 7, 0] = .error .truncatedHeader := rfl
theorem test_decode_refuses_bad_sync1 : decodeHeader [0xB4, 0x62, 1, 7, 0, 0] = .error .badSync1 := rfl
theorem test_decode_refuses_bad_sync2 : decodeHeader [0xB5, 0xB5, 1, 7, 0, 0] = .error .badSync2 := rfl

/-! The checksum (section 2.1) -/

theorem test_ck_wraps : ckOf [0xFF, 0xFF] = (0xFE, 0xFD) := by decide
theorem test_ck_zero_bytes_count : ckOf [0x01, 0x07, 0x00, 0x00] = (0x08, 0x19) := by decide
theorem test_ck_five : ckOf [1, 2, 3, 4, 5] = (0x0F, 0x23) := by decide

/-! One step of each operation -/

/-- 2.2: other registers keep what they hold. -/
theorem test_s1Hit : decAfter .s1Hit { Decoder.initial with cls := 9 } =
    some { Decoder.initial with cls := 9, st := .awaitSync2 } := by decide
theorem test_s1Miss : decAfter (.s1Miss 0xB4) { Decoder.initial with cka := 9 } =
    some { Decoder.initial with cka := 9 } := by decide
/-- R102: the accumulators are zeroed, whatever they held. -/
theorem test_s2Hit : decAfter .s2Hit { at' .awaitSync2 with cka := 5, ckb := 6 } =
    some (at' .readClass) := by decide
/-- S5 -/
theorem test_s2Miss : decAfter (.s2Miss 0xB5) (at' .awaitSync2) = some Decoder.initial := by decide
/-- V1, bytes 2 to 5 -/
theorem test_cls : decAfter (.cls 0x01) (at' .readClass) =
    some { at' .readId with cls := 1, cka := 0x01, ckb := 0x01 } := by decide
theorem test_ident : decAfter (.ident 0x07) { at' .readId with cls := 1, cka := 0x01, ckb := 0x01 } =
    some { at' .readLengthLow with cls := 1, id := 7, cka := 0x08, ckb := 0x09 } := by decide
theorem test_lenLo :
    decAfter (.lenLo 0x5C) { at' .readLengthLow with cls := 1, id := 7, cka := 0x08, ckb := 0x09 } =
    some { at' .readLengthHigh with cls := 1, id := 7, len := 92, cka := 0x64, ckb := 0x6D } := by decide
theorem test_lenHiOk :
    decAfter (.lenHiOk 0x00)
      { at' .readLengthHigh with cls := 1, id := 7, len := 92, idx := 5, cka := 0x64, ckb := 0x6D } =
    some { at' .readPayload with cls := 1, id := 7, len := 92, cka := 0x64, ckb := 0xD1 } := by decide
/-- D8: the high byte a stale length held is cleared. -/
theorem test_lenLo_clears_high : (decAfter (.lenLo 0x5C) { at' .readLengthLow with len := 0xABCD }).map
    Decoder.len = some 0x005C := by decide
/-- The length is little-endian: low byte 00, high byte 01 is 256. -/
theorem test_lenHiOk_is_little_endian :
    (decAfter (.lenHiOk 0x01) (at' .readLengthHigh)).map Decoder.len = some 256 := by decide
/-- P2, byte 104: `idx` is not written. -/
theorem test_lenHiZero :
    decAfter (.lenHiZero 0x00)
      { at' .readLengthHigh with cls := 0x0A, id := 4, idx := 3, cka := 0x0E, ckb := 0x26 } =
    some { at' .readChecksumA with cls := 0x0A, id := 4, idx := 3, cka := 0x0E, ckb := 0x34 } := by decide
/-- V4, byte 5 -/
theorem test_lenHiOver :
    decAfter (.lenHiOver 0x01)
      { at' .readLengthHigh with cls := 1, id := 7, len := 1, cka := 0x09, ckb := 0x12 } =
    some Decoder.initial := by decide
theorem test_lenHiOver_is_silent :
    outAfter (.lenHiOver 0x01) { at' .readLengthHigh with len := 1 } =
    some ⟨none, false, some .oversizeError⟩ := by decide
/-- 2.4, row 2 -/
theorem test_payMore : decAfter (.payMore 0xB5) { at' .readPayload with len := 2, cka := 0x0A, ckb := 0x13 } =
    some { at' .readPayload with len := 2, idx := 1, cka := 0xBF, ckb := 0xD2, pay := [(0, 0xB5)] } := by
  decide
/-- 2.4, row 4: the index reaches 256, which needs nine bits. -/
theorem test_payLast :
    decAfter (.payLast 0xFF) { at' .readPayload with len := 256, idx := 255, cka := 0xF5, ckb := 0xBE } =
    some { at' .readChecksumA with len := 256, idx := 256, cka := 0xF4, ckb := 0xB2, pay := [(255, 0xFF)] } := by
  decide
/-- 2.4, row 5 -/
theorem test_payGuard :
    decAfter (.payGuard 0x11) { at' .readPayload with len := 300, idx := 256, pay := [(3, 9)] } =
    some Decoder.initial := by decide
/-- R12: no address is left. -/
theorem test_payMore_has_no_address_256 :
    exec (.payMore 0x11) (inDec { at' .readPayload with len := 300, idx := 256 }) =
    .fault .payloadOutOfBounds := rfl
/-- P2, byte 105: stored, not folded. -/
theorem test_cka : decAfter (.cka 0x0E) { at' .readChecksumA with cls := 0x0A, id := 4, cka := 0x0E, ckb := 0x34 } =
    some { at' .readChecksumB with cls := 0x0A, id := 4, rxCka := 0x0E, cka := 0x0E, ckb := 0x34 } := by decide
/-- R133: the Record is read before the reset clears the buffer; V1's year and fix bytes. -/
theorem test_ckbRec :
    ((outAfter (.ckbRec 0x24)
      { at' .readChecksumB with
        cls := 1, id := 7, len := 92, idx := 92, rxCka := 0x19, cka := 0x19, ckb := 0x24
        pay := [(4, 0xE8), (5, 0x07), (20, 0x03), (21, 0x01)] }).bind Output.record).map
      (fun r => (r.valid, r.year)) = some (true, 2024) := by decide
theorem test_ckbRec_resets :
    decAfter (.ckbRec 0x24) { at' .readChecksumB with cls := 1, rxCka := 0x19, pay := [(4, 0xE8)] } =
    some Decoder.initial := by decide
/-- 2.5 -/
theorem test_ckbShort : outAfter (.ckbShort 0x40) { at' .readChecksumB with cls := 1, id := 7, len := 83 } =
    some ⟨none, false, some .shortPayloadError⟩ := by decide
theorem test_ckbOther : outAfter (.ckbOther 0x34) { at' .readChecksumB with cls := 0x0A, id := 4 } =
    some ⟨none, false, some .swallowed⟩ := by decide
theorem test_ckbBad : outAfter (.ckbBad 0x35) { at' .readChecksumB with cls := 0x0A, id := 4, len := 3 } =
    some ⟨none, true, some .checksumError⟩ := by decide
theorem test_ckbBad_resets : decAfter (.ckbBad 0x35) { at' .readChecksumB with cls := 0x0A, pay := [(0, 1)] } =
    some Decoder.initial := by decide
/-- 2.3, row 11: after the sync pair, B5 62 are a class and an id. -/
theorem test_frameHeader : decAfter (.frameHeader 0xB5 0x62 0x00 0x00) Decoder.initial =
    some { at' .readChecksumA with cls := 0xB5, id := 0x62, cka := 0x17, ckb := 0xFA } := by decide
/-- 2.3, row 7 -/
theorem test_frameRecognized : decAfter (.frameRecognized 0x00 0x01) Decoder.initial =
    some { at' .readPayload with cls := 1, id := 7, len := 256, cka := 0x09, ckb := 0x1A } := by decide

/-! The cycle -/

/-- R230: the byte presented with `rst = 1` is lost. -/
theorem test_hard_reset :
    (next? (step { inDec { at' .readPayload with len := 9, cka := 3, pay := [(0, 1)] } with
      source := [.cycle true true 0xB5] })).map State.dec = some Decoder.initial := by decide
/-- R30: `in_byte` is not looked at without `in_valid`. -/
theorem test_idle :
    (next? (step { inDec (at' .awaitSync2) with source := [.cycle false false 0x62] })).map State.dec =
    some (at' .awaitSync2) := by decide
/-- R245: the outputs are presented for their own step only. -/
theorem test_output_is_not_sticky :
    (next? (step { State.reset with out := ⟨none, true, some .checksumError⟩ })).map State.out =
    some ⟨none, false, none⟩ := by decide
/-- A table word runs as the first step after reset. -/
theorem test_fetch_word :
    (next? (step (State.reset.withFetchWord 8 0x62))).map State.dec = some (at' .readClass) := by decide

/-! The extractor and the conversions (sections 2.6 and 2.8) -/

/-- V2: `h_acc` reads unsigned where the same bytes in `g_speed` read -1. -/
theorem test_signedness :
    (decodeRecord [(40, 0xFF), (41, 0xFF), (42, 0xFF), (43, 0xFF)]).hAcc.toNat = 4294967295 ∧
    signed32 (decodeRecord [(60, 0xFF), (61, 0xFF), (62, 0xFF), (63, 0xFF)]).gSpeed = -1 := by decide
/-- V1: bytes C2 8B 35 1C at offset 28. -/
theorem test_lat_is_little_endian :
    signed32 (decodeRecord [(28, 0xC2), (29, 0x8B), (30, 0x35), (31, 0x1C)]).lat = 473271234 := by decide
/-- S3, and the unsigned reading of V3. -/
theorem test_valid_rule :
    validFix 3 0x01 = true ∧ validFix 2 0x01 = false ∧ validFix 3 0x00 = false ∧ validFix 255 0xFF = true := by
  decide
/-- S4 -/
theorem test_lat_deg : { decodeRecord [] with lat := 473271234 }.latDeg = 473271234 / 10000000 := by
  simp only [Record.latDeg, show signed32 473271234 = 473271234 by decide]; norm_num
theorem test_h_msl_m : { decodeRecord [] with hMsl := 0xFFFFEC78 }.hMslM = -5 := by
  simp only [Record.hMslM, show signed32 0xFFFFEC78 = -5000 by decide]; norm_num
/-- FRAME(06, 01, [01, 07, 01]): section 2.9. -/
theorem test_frame :
    frame 0x06 0x01 [0x01, 0x07, 0x01] =
      [0xB5, 0x62, 0x06, 0x01, 0x03, 0x00, 0x01, 0x07, 0x01, 0x13, 0x51] := by decide
/-- R88: the declared length is free of the payload. -/
theorem test_frameForced :
    (frameForced 0x01 0x07 257 []).take 6 = [0xB5, 0x62, 0x01, 0x07, 0x01, 0x01] := by decide

/-! Witnesses: concrete values that meet the hypotheses of each statement that has any, at the boundaries
where clauses meet -/

/-- A state of the machine with these registers and these cycles to come. -/
def presenting (d : Decoder) (xs : List Stimulus) : State := { inDec d with source := xs }

/-- A frame in flight: after B5 62 01, with stale values in the registers not written yet. -/
def midFrame : Decoder := { at' .readId with cls := 1, cka := 1, ckb := 1 }

/-- The last byte of an 84-byte recognized frame of zeros is awaited. -/
def lastByte (len : Half) (a b : Byte) : Decoder :=
  { at' .readChecksumB with cls := 1, id := 7, len := len, rxCka := a, cka := a, ckb := b }

theorem witness_PayMoreStoresOneByte :
    ((at' .readPayload).pay.wf = true ∧ { at' .readPayload with idx := 255 }.idx.toNat < 256) ∧
    256 ≤ { at' .readPayload with idx := 256 }.idx.toNat := by decide

theorem witness_PayLastCompletesPayload :
    ({ at' .readPayload with pay := [(254, 1)] }.pay.wf = true ∧
      { at' .readPayload with idx := 255 }.idx.toNat < 256) ∧
    256 ≤ { at' .readPayload with idx := 256 }.idx.toNat := by decide

/-- Stale registers, and the lengths 0, 256 and 257 where the clauses meet. -/
theorem witness_FrameHeaderFromSyncSearch :
    (inDec { Decoder.initial with cls := 9, idx := 9, cka := 9 }).dec.st = .awaitSync1 ∧
    (0x00 : Byte).toNat + 256 * (0x00 : Byte).toNat = 0 ∧
    (0x00 : Byte).toNat + 256 * (0x01 : Byte).toNat ≤ 256 ∧
    256 < (0x01 : Byte).toNat + 256 * (0x01 : Byte).toNat := by decide

theorem witness_StepRunsDecodedInstruction :
    ((presenting (at' .awaitSync2) [.cycle false true 0x62]).source = [.cycle false true 0x62] ∧
      decode (at' .awaitSync2) [0x62, 0x01] = .ok (.s2Hit, [0x01])) ∧
    ((presenting Decoder.initial [.header 1 7 84 0]).source = [.header 1 7 84 0] ∧
      decodeHeader ([0xB5, 0x62, 1, 7, 84, 0] ++ [0xFF]) = .ok (.frameRecognized 84 0, [0xFF])) :=
  ⟨⟨rfl, rfl⟩, rfl, rfl⟩

theorem witness_HardResetBeatsEverything :
    (presenting midFrame [.cycle true true 0xB5]).source = [.cycle true true 0xB5] := rfl

theorem witness_IdleHoldsState :
    (presenting midFrame [.cycle false false 0xB5]).source = [.cycle false false 0xB5] ∧
    (inDec midFrame).source = [] := ⟨rfl, rfl⟩

theorem witness_DecodeOfEncode :
    ((Instr.frameHeader 0x0A 4 0 0).wf = true ∧ (Instr.frameHeader 0x0A 4 0 0).row = none) ∧
    ((Instr.lenHiOk 1).wf = true ∧ selects (at' .readLengthHigh) 1 (.lenHiOk 1) = true) := by decide

theorem witness_EncodeOfDecode :
    decode (at' .readId) [0x07, 0x5C] = .ok (.ident 0x07, [0x5C]) ∧
    decodeHeader [0xB5, 0x62, 1, 7, 0, 1, 9] = .ok (.frameRecognized 0 1, [9]) := ⟨rfl, rfl⟩

theorem witness_WellFormedExactlySelectable :
    (Instr.lenHiOver 1).row ≠ none ∧ (Instr.lenHiOver 1).wf = true ∧
    decodeByte { at' .readLengthHigh with len := 1 } 1 = .lenHiOver 1 := by decide

theorem witness_FetchWordRunsNext :
    decodeTableWord 8 (0x62 : Byte).toNat = some .s2Hit ∧
    decodeTableWord 8 (0x00 : Byte).toNat = some (.s1Miss 0x00) := by decide

theorem midFrame_inv : midFrame.Inv := by
  constructor <;> first | decide | (intro a _; rfl)

theorem witness_StepKeepsInvariant :
    (presenting midFrame [.cycle false true 7]).dec.Inv ∧
    step (presenting midFrame [.cycle false true 7]) =
      .next { presenting { midFrame with id := 7, cka := 8, ckb := 9, st := .readLengthLow } [] with
        sink := [⟨none, false, none⟩] } := ⟨midFrame_inv, rfl⟩

theorem witness_StepKeepsBufferCanonical :
    { at' .readPayload with len := 300, idx := 256, pay := [(255, 1)] }.pay.wf = true ∧
    step (inDec { at' .readPayload with len := 300, idx := 256, pay := [(255, 1)] }) =
      .next (inDec { at' .readPayload with len := 300, idx := 256, pay := [(255, 1)] }) := ⟨by decide, rfl⟩

/-- A byte that completes a frame of 84 bytes, and its step. -/
theorem witness_RecordExactlyWhenFrameCompletes :
    (presenting (lastByte 84 0x5C 0xF1) [.cycle false true 0xF1]).source = [.cycle false true 0xF1] ∧
    step (presenting (lastByte 84 0x5C 0xF1) [.cycle false true 0xF1]) =
      .next { State.reset with
        out := ⟨some (decodeRecord []), false, none⟩, sink := [⟨some (decodeRecord []), false, none⟩] } :=
  ⟨rfl, rfl⟩

/-- A byte that mismatches, and a cycle with no byte. -/
theorem witness_CkErrExactlyOnMismatch :
    ((presenting (lastByte 84 0x5C 0xF1) [.cycle false true 0xF2]).source = [.cycle false true 0xF2] ∧
      step (presenting (lastByte 84 0x5C 0xF1) [.cycle false true 0xF2]) =
        .next { State.reset with
          out := ⟨none, true, some .checksumError⟩, sink := [⟨none, true, some .checksumError⟩] }) ∧
    ((presenting midFrame [.cycle true true 0xF2]).source = [.cycle true true 0xF2] ∧
      step (presenting midFrame [.cycle true true 0xF2]) = .next State.reset) := ⟨⟨rfl, rfl⟩, rfl, rfl⟩

/-- A byte for each label, at the boundaries: 83 bytes, length 257, index 256. -/
theorem witness_ErrorClassesByCause :
    (∃ t, step (presenting (at' .awaitSync2) [.cycle false true 0xB5]) = .next t) ∧
    (∃ t, step (presenting { at' .readLengthHigh with len := 1 } [.cycle false true 1]) = .next t) ∧
    (∃ t, step (presenting (lastByte 83 0x5B 0x40) [.cycle false true 0x40]) = .next t) ∧
    (∃ t, step (presenting (lastByte 84 0x5C 0xF1) [.cycle false true 0xF2]) = .next t) ∧
    (∃ t, step (presenting { lastByte 84 0x5C 0xF1 with id := 6 } [.cycle false true 0xF1]) = .next t) ∧
    ∃ t, step (presenting { at' .readPayload with idx := 256 } [.cycle false true 1]) = .next t :=
  ⟨⟨_, rfl⟩, ⟨_, rfl⟩, ⟨_, rfl⟩, ⟨_, rfl⟩, ⟨_, rfl⟩, _, rfl⟩

theorem witness_NeverRecordAndCkErr :
    step (presenting (lastByte 84 0x5C 0xF1) [.cycle false true 0xF2]) =
      .next { State.reset with
        out := ⟨none, true, some .checksumError⟩, sink := [⟨none, true, some .checksumError⟩] } := rfl

theorem witness_StateMovesOnlyToSuccessors :
    (lastByte 84 0x5C 0xF1).st = .readChecksumB ∧
    ∃ t, step (presenting (lastByte 84 0x5C 0xF1) [.cycle false true 0xF1]) = .next t := ⟨rfl, _, rfl⟩

theorem witness_TerminalOperationsResetFully : isTerminal (.payGuard 1) = true := rfl

theorem witness_BufferWrittenOnlyAtIndex :
    { at' .readPayload with len := 256, idx := 255, pay := [(3, 1)] }.pay.wf = true ∧
    ∃ t, step (presenting { at' .readPayload with len := 256, idx := 255, pay := [(3, 1)] }
      [.cycle false true 9]) = .next t := ⟨by decide, _, rfl⟩

theorem witness_AcceptableFrameDecodes :
    (presenting Decoder.initial (stream (frame 1 7 (List.replicate 256 0)) ++ [.cycle true false 0])).dec =
      Decoder.initial ∧
    (List.replicate 256 (0 : Byte)).length ≤ 256 ∧
    (presenting Decoder.initial (stream (frame 1 7 (List.replicate 256 0)) ++ [.cycle true false 0])).source =
      stream (frame 1 7 (List.replicate 256 0)) ++ [.cycle true false 0] :=
  ⟨rfl, List.length_replicate.trans_le (by decide), rfl⟩

/-- Frames of 83, 84 and 256 bytes. -/
def threeFrames : List (Byte × Byte × List Byte) :=
  [83, 84, 256].map fun n => (1, 7, List.replicate n 0)

theorem witness_BackToBackFramesDecode :
    (presenting Decoder.initial
      (stream (threeFrames.flatMap fun f => frame f.1 f.2.1 f.2.2) ++ [])).dec = Decoder.initial ∧
    (∀ f ∈ threeFrames, f.2.2.length ≤ 256) ∧
    (presenting Decoder.initial
      (stream (threeFrames.flatMap fun f => frame f.1 f.2.1 f.2.2) ++ [])).source =
      stream (threeFrames.flatMap fun f => frame f.1 f.2.1 f.2.2) ++ [] :=
  ⟨rfl, List.forall_mem_map.mpr fun n hn => List.length_replicate.trans_le (by revert n hn; decide), rfl⟩

/-- S9: length 257. -/
theorem witness_FrameAfterOversizedHeaderDecodes :
    256 < (257 : Half).toNat ∧ (∀ x ∈ [(0x62 : Byte), 0x00], x ≠ 0xB5) ∧
    (List.replicate 84 (0 : Byte)).length ≤ 256 ∧
    (presenting Decoder.initial (stream ([0xB5, 0x62, 1, 7, lowByte 257, highByte 257] ++ [0x62, 0x00] ++
      frame 1 7 (List.replicate 84 0)) ++ [])).dec = Decoder.initial ∧
    (presenting Decoder.initial (stream ([0xB5, 0x62, 1, 7, lowByte 257, highByte 257] ++ [0x62, 0x00] ++
      frame 1 7 (List.replicate 84 0)) ++ [])).source =
      stream ([0xB5, 0x62, 1, 7, lowByte 257, highByte 257] ++ [0x62, 0x00] ++
        frame 1 7 (List.replicate 84 0)) ++ [] :=
  ⟨by decide, by decide, List.length_replicate.trans_le (by decide), rfl, rfl⟩

/-- The bytes of a frame of class 01, id 07 whose payload `before, x, after` arrives with `y` for `x`. -/
def flipped (before after : List Byte) (x y : Byte) : List Byte :=
  [0xB5, 0x62] ++
    frameBody 1 7 (BitVec.ofNat 16 (before.length + 1 + after.length)) (before ++ [y] ++ after) ++
    [(ckOf (frameBody 1 7 (BitVec.ofNat 16 (before.length + 1 + after.length)) (before ++ [x] ++ after))).1,
     (ckOf (frameBody 1 7 (BitVec.ofNat 16 (before.length + 1 + after.length)) (before ++ [x] ++ after))).2]

theorem witness_FlippedPayloadByteIsCaught :
    (List.replicate 200 (0 : Byte)).length + 1 + (List.replicate 55 (0 : Byte)).length ≤ 256 ∧
    (0x35 : Byte) ≠ 0x34 ∧
    (presenting Decoder.initial (stream (flipped (List.replicate 200 0) (List.replicate 55 0) 0x35 0x34) ++
      [])).dec = Decoder.initial ∧
    (presenting Decoder.initial (stream (flipped (List.replicate 200 0) (List.replicate 55 0) 0x35 0x34) ++
      [])).source = stream (flipped (List.replicate 200 0) (List.replicate 55 0) 0x35 0x34) ++ [] :=
  ⟨by rw [List.length_replicate, List.length_replicate], by decide, rfl, rfl⟩

/-- S6: sequences that end in an odd and in an even run of 0xB5. -/
theorem witness_NoSyncPairNoOutput :
    ¬[(0xB5 : Byte), 0x62] <:+: [0x00, 0xB5, 0xB5, 0xB5] ∧ trailingSync1 [0x00, 0xB5, 0xB5, 0xB5] = 3 ∧
    ¬[(0xB5 : Byte), 0x62] <:+: [0x62, 0xB5, 0xB5] ∧ trailingSync1 [0x62, 0xB5, 0xB5] = 2 ∧
    (presenting Decoder.initial (stream [0x62, 0xB5, 0xB5] ++ [])).dec = Decoder.initial ∧
    (presenting Decoder.initial (stream [0x62, 0xB5, 0xB5] ++ [])).source =
      stream [0x62, 0xB5, 0xB5] ++ [] := by decide

/-- S5: runs of two and of three. -/
theorem witness_OddRunOfSync1Syncs :
    (presenting Decoder.initial (stream (List.replicate 2 0xB5 ++ [0x62]))).dec = Decoder.initial ∧
    (presenting Decoder.initial (stream (List.replicate 2 0xB5 ++ [0x62]))).source =
      stream (List.replicate 2 0xB5 ++ [0x62]) ∧
    (presenting Decoder.initial (stream (List.replicate 3 0xB5 ++ [0x62]))).source =
      stream (List.replicate 3 0xB5 ++ [0x62]) := ⟨rfl, rfl, rfl⟩

theorem witness_ReturnsToSearchWithin264Bytes :
    (presenting midFrame (stream (List.replicate 264 0xFF) ++ [])).dec.Inv ∧
    264 ≤ (List.replicate 264 (0xFF : Byte)).length ∧
    (presenting midFrame (stream (List.replicate 264 0xFF) ++ [])).source =
      stream (List.replicate 264 0xFF) ++ [] := ⟨midFrame_inv, List.length_replicate.ge, rfl⟩

/-- The same frame in flight over a clean and over a stale buffer. -/
theorem witness_StaleValuesAreUnobservable :
    (presenting midFrame [.cycle false true 7]).dec.pay.wf = true ∧
    (presenting { midFrame with len := 9, idx := 4, rxCka := 2, pay := [(5, 1)] }
      [.cycle false true 7]).dec.pay.wf = true ∧
    SameFrame midFrame { midFrame with len := 9, idx := 4, rxCka := 2, pay := [(5, 1)] } ∧
    (presenting midFrame [.cycle false true 7]).source =
      (presenting { midFrame with len := 9, idx := 4, rxCka := 2, pay := [(5, 1)] }
        [.cycle false true 7]).source := by
  refine ⟨by decide, by decide, ?_, rfl⟩
  constructor <;> simp [midFrame, at', StateName.rank]

theorem witness_SingleByteErrorChangesChecksum : (0x35 : Byte) ≠ 0x34 := by decide

/-- Bytes 11, 22, 32, 48 and 64 differ. -/
theorem witness_UnnamedBytesDoNotMatter :
    ∀ a ∈ [4, 5, 6, 7, 8, 9, 10, 16, 17, 18, 19, 20, 21, 23, 24, 25, 26, 27, 28, 29, 30, 31, 36, 37, 38,
        39, 40, 41, 42, 43, 44, 45, 46, 47, 60, 61, 62, 63],
      Memory.readByte [(4, 1), (11, 1), (22, 1), (32, 1), (48, 1), (64, 1)] a =
        Memory.readByte [(4, 1)] a := by decide

theorem witness_LoopedBackCommandIsAnyFrame :
    (presenting Decoder.initial (stream (commandBytes .msgRate) ++ [])).dec = Decoder.initial ∧
    (presenting Decoder.initial (stream (commandBytes .msgRate) ++ [])).source =
      stream (commandBytes .msgRate) ++ [] := ⟨rfl, rfl⟩

end Sys2Proof.Tests
end

/-! PROOFS. The sync search and the frame header (spec/40_sync_header.md R100 to R109): when each
operation is selected, read off its table row (R80, R89), and what it does. -/

namespace Sys2Proof

open Machine

/-! Selection: the dispatch picks exactly the operation whose table row selects it -/

/-- The dispatched operation meets the match and the guard of its own table row (R80, R82). -/
theorem selects_decodeByte (d : Decoder) (b : Byte) : selects d b (decodeByte d b) = true := by
  cases hst : d.st <;> simp only [decodeByte, hst]
  case readClass | readId | readLengthLow | readChecksumA =>
    simp [selects, Instr.row, Instr.guard, encode, hst]
  case awaitSync1 | awaitSync2 =>
    split <;> simp_all [selects, Instr.row, Instr.guard, encode]
  case readLengthHigh =>
    simp only [← BitVec.toNat_inj]
    split_ifs <;> simp_all [selects, Instr.row, Instr.guard, encode, Nat.one_le_iff_ne_zero]
  case readPayload =>
    split_ifs <;>
      simp_all [selects, Instr.row, Instr.guard, encode, Decoder.atCapacity, Decoder.atLast]
  case readChecksumB =>
    split_ifs <;>
      simp_all [selects, Instr.row, Instr.guard, encode, Decoder.checksumOk, Decoder.recognized,
        Decoder.tooShort]

/-- The rows exclude each other: an operation whose row selects it is the dispatched one (R80, R82). -/
theorem decodeByte_of_selects {d : Decoder} {b : Byte} {i : Instr} (h : selects d b i = true) :
    decodeByte d b = i := by
  cases i
  case frameHeader | frameRecognized => cases h
  case s1Hit | s1Miss | s2Hit | s2Miss | cls | ident | lenLo | cka =>
    simp_all [selects, Instr.row, Instr.guard, encode, decodeByte]
  case lenHiZero | lenHiOk =>
    simp_all [selects, Instr.row, Instr.guard, encode, decodeByte, ← BitVec.toNat_inj,
      Nat.one_le_iff_ne_zero]
  case lenHiOver =>
    obtain ⟨⟨hst, hcap⟩, rfl⟩ : (d.st = _ ∧ Config.cap < (lenWithHigh d.len b).toNat) ∧ _ = b := by
      simpa [selects, Instr.row, Instr.guard, encode] using h
    simp [decodeByte, hst, ← BitVec.toNat_inj, Nat.ne_zero_of_lt hcap, Nat.not_le_of_lt hcap]
  case payGuard | payLast | payMore =>
    simp_all [selects, Instr.row, Instr.guard, encode, decodeByte, Decoder.atCapacity, Decoder.atLast]
  case ckbRec | ckbShort | ckbOther | ckbBad =>
    simp_all [selects, Instr.row, Instr.guard, encode, decodeByte, Decoder.checksumOk,
      Decoder.recognized, Decoder.tooShort]

theorem decodeByte_eq_iff_selects {d : Decoder} {b : Byte} {i : Instr} :
    decodeByte d b = i ↔ selects d b i = true :=
  ⟨fun h => h ▸ selects_decodeByte d b, decodeByte_of_selects⟩

/-- A row that matches every byte selects its operation by the state and the guard alone. -/
theorem decodeByte_eq_iff_of_openRow {d : Decoder} {b x : Byte} {i : Instr} {n : StateName}
    (hrow : i.row = some ⟨n, 0x00, 0x00⟩) (henc : encode i = [x]) :
    decodeByte d b = i ↔ x = b ∧ d.st = n ∧ i.guard d b = true := by
  simp [decodeByte_eq_iff_selects, selects, hrow, henc, and_comm]

/-- A row that fixes its byte selects its operation by the state, that byte and the guard. -/
theorem decodeByte_eq_iff_of_fixedRow {d : Decoder} {b x : Byte} {i : Instr} {n : StateName}
    (hrow : i.row = some ⟨n, 0xFF, x⟩) (henc : encode i = [x]) :
    decodeByte d b = i ↔ d.st = n ∧ b = x ∧ i.guard d b = true := by
  have hmask : b &&& 255#8 = b := BitVec.and_allOnes
  simp [decodeByte_eq_iff_selects, selects, hrow, henc, hmask, eq_comm (a := x), and_assoc,
    and_comm, and_left_comm]

/-! The sync search -/

/-- Settles O1: the row of S1.HIT fixes its byte, and its effect is R100's assignment. -/
theorem s1HitAdvancesToAwaitSync2 : Obligations.S1HitAdvancesToAwaitSync2 := by
  refine ⟨fun d b => ?_, fun s => exec_of_effect rfl⟩
  simp [decodeByte_eq_iff_of_fixedRow (i := .s1Hit) rfl rfl, Instr.guard]

/-- Settles O2: the guard of S1.MISS is what keeps the byte 0xB5 from it. -/
theorem s1MissChangesNoRegister : Obligations.S1MissChangesNoRegister := by
  refine ⟨fun d b x => ?_, fun b s => exec_of_effect rfl⟩
  simp [decodeByte_eq_iff_of_openRow (i := .s1Miss x) rfl rfl, Instr.guard]

/-- Settles O3: the row of S2.HIT fixes its byte, and its effect is R102's three assignments. -/
theorem s2HitZeroesChecksum : Obligations.S2HitZeroesChecksum := by
  refine ⟨fun d b => ?_, fun s => exec_of_effect rfl⟩
  simp [decodeByte_eq_iff_of_fixedRow (i := .s2Hit) rfl rfl, Instr.guard]

/-! The frame header -/

/-- Settles O5: the row of CLS is open and unguarded, and its effect is R104's store and fold. -/
theorem clsStoresAndFolds : Obligations.ClsStoresAndFolds := by
  refine ⟨fun d b x => ?_, fun b s => exec_of_effect rfl⟩
  simp [decodeByte_eq_iff_of_openRow (i := .cls x) rfl rfl, Instr.guard]

/-- Settles O6: the row of ID is open and unguarded, and its effect is R105's store and fold. -/
theorem idStoresAndFolds : Obligations.IdStoresAndFolds := by
  refine ⟨fun d b x => ?_, fun b s => exec_of_effect rfl⟩
  simp [decodeByte_eq_iff_of_openRow (i := .ident x) rfl rfl, Instr.guard]

/-- What the LENHI operations begin with (R107), the assembled length written as a number. -/
theorem Machine.Decoder.takeLenHigh_eq (b : Byte) (d : Decoder) :
    d.takeLenHigh b = { d with
      len := BitVec.ofNat 16 (d.len.toNat % 256 + 256 * b.toNat)
      cka := d.cka + b, ckb := d.ckb + (d.cka + b) } := by
  rw [← lenWithHigh_toNat, BitVec.ofNat_toNat, BitVec.setWidth_eq]
  rfl

/-- Settles O8: the assembled length is 0 exactly when both of its bytes are. -/
theorem lenHiZeroSkipsPayload : Obligations.LenHiZeroSkipsPayload := by
  refine ⟨fun d b x => ?_, fun b s => ?_⟩
  · have hzero : d.len.toNat % 256 + 256 * b.toNat = 0 ↔ b = 0 ∧ d.len.toNat % 256 = 0 := by
      bv_omega
    rw [decodeByte_eq_iff_of_openRow (i := .lenHiZero x) rfl rfl, ← hzero]
    simp [Instr.guard, lenWithHigh_toNat]
  · rw [exec_of_effect (i := .lenHiZero b) rfl, Decoder.takeLenHigh_eq]
    rfl

/-- Settles O9: the guard of LENHI.OK (R109), with the assembled length written as a number. -/
theorem lenHiOkEntersPayload : Obligations.LenHiOkEntersPayload := by
  refine ⟨fun d b x => ?_, fun b s => ?_⟩
  · rw [decodeByte_eq_iff_of_openRow (i := .lenHiOk x) rfl rfl]
    simp [Instr.guard, lenWithHigh_toNat]
  · rw [exec_of_effect (i := .lenHiOk b) rfl, Decoder.takeLenHigh_eq]
    rfl

end Sys2Proof

/-! PROOFS. The payload and the checksum (spec/41_payload_checksum.md R120 to R130): the fold as
arithmetic modulo 256, and the first received checksum byte. -/

namespace Sys2Proof

open Machine

/-! The fold -/

/-- Accumulator A after one round of the recurrence, as a number (R74). -/
theorem Machine.ckStep_fst_toNat (a c x : Byte) :
    (ckStep (a, c) x).1.toNat = (a.toNat + x.toNat) % 256 :=
  BitVec.toNat_add a x

/-- Accumulator B after one round of the recurrence, as a number: it adds the NEW A (R74, R120). -/
theorem Machine.ckStep_snd_toNat (a c x : Byte) :
    (ckStep (a, c) x).2.toNat = (c.toNat + (ckStep (a, c) x).1.toNat) % 256 :=
  BitVec.toNat_add c (ckStep (a, c) x).1

/-- Settles O51: `fold` is one round of the recurrence on the two accumulators. -/
theorem foldAddsNewAccumulator : Obligations.FoldAddsNewAccumulator := by
  intro d b
  refine ⟨?_, ?_, rfl⟩
  · rw [Decoder.fold_cka, ckStep_fst_toNat]
  · rw [Decoder.fold_ckb, ckStep_snd_toNat, ckStep_fst_toNat]

/-! The received checksum -/

/-- Settles O14: the row of CKA is open and unguarded, and its effect is R130's store. -/
theorem ckaStoresWithoutFolding : Obligations.CkaStoresWithoutFolding := by
  refine ⟨fun d b x => ?_, fun b s => exec_of_effect rfl⟩
  simp [decodeByte_eq_iff_of_openRow (i := .cka x) rfl rfl, Instr.guard]

end Sys2Proof

/-! PROOFS. The Command Encoder (spec/43_command_encoder.md R181): each command string is a frame of R73,
and every such frame ends with the checksum of its body. -/

namespace Sys2Proof

open Machine

@[simp] theorem Machine.commandPayload_length (x : Config.Command) :
    (commandPayload x).length = (Config.commandLen x).toNat := by
  simp [commandPayload]

/-- The two length bytes bound the payload, so the frame is one of R73 whatever the open contents are. -/
theorem Machine.commandBytes_wellFormed (x : Config.Command) : WellFormedFrame (commandBytes x) := by
  have hlen : (commandPayload x).length ≤ 65535 := by
    rw [commandPayload_length]
    exact Nat.le_of_lt_succ (Config.commandLen x).isLt
  exact ⟨Config.commandClass x, Config.commandId x, commandPayload x, hlen, rfl⟩

/-- What stands between the sync bytes and the last two is the body the checksum covers (R16, R72). -/
theorem Machine.WellFormedFrame.ends_with_checksum {bytes : List Byte} (h : WellFormedFrame bytes) :
    ∃ body a b, bytes = [0xB5, 0x62] ++ body ++ [a, b] ∧ (a, b) = ckOf body := by
  obtain ⟨c, i, p, -, rfl⟩ := h
  exact ⟨frameBody c i (BitVec.ofNat 16 p.length) p, _, _, rfl, rfl⟩

/-- Settles O58: the payload fits the length field, and any well-formed frame ends with its checksum. -/
theorem commandsAreWellFormedFrames : Obligations.CommandsAreWellFormedFrames := fun x =>
  have hframe := commandBytes_wellFormed x
  ⟨hframe, hframe.ends_with_checksum⟩

end Sys2Proof

/-! PROOFS. The operation map (spec/30_encoding.md R70, R71, R80 to R82): encoder, decoders and table
rows agree. -/

namespace Sys2Proof

open Machine

/-! What a selection says about the operation -/

theorem encode_of_selects {d : Decoder} {b : Byte} {i : Instr} (h : selects d b i = true) :
    encode i = [b] := by
  simp only [selects] at h
  split at h <;> simp_all

theorem guard_of_selects {d : Decoder} {b : Byte} {i : Instr} (h : selects d b i = true) :
    i.guard d b = true := by
  simp only [selects] at h
  split at h <;> simp_all

@[simp] theorem encode_decodeByte (d : Decoder) (b : Byte) : encode (decodeByte d b) = [b] :=
  encode_of_selects (selects_decodeByte d b)

/-- The guard of a row admits only operands R80 admits; for LENHI it bounds the high byte. -/
theorem wf_of_selects {d : Decoder} {b : Byte} {i : Instr} (h : selects d b i = true) :
    i.wf = true := by
  have henc := encode_of_selects h
  have hguard := guard_of_selects h
  cases i
  case frameHeader | frameRecognized => cases h
  case s1Miss | s2Miss => simp_all [Instr.guard, encode, Instr.wf]
  case lenHiZero x | lenHiOk x | lenHiOver x =>
    obtain rfl : x = b := by simpa [encode] using henc
    simp only [Instr.guard, lenWithHigh_toNat, Bool.and_eq_true, decide_eq_true_eq, beq_iff_eq,
      Config.cap_eq] at hguard
    simp only [Instr.wf, beq_iff_eq, bne_iff_ne, Bool.or_eq_true]
    bv_omega
  all_goals rfl

/-- The header decoder's answer is well formed: class 01, id 07 goes to FRAME.RECOGNIZED (log 3). -/
theorem headerInstr_wf (c i l h : Byte) : (headerInstr c i l h).wf = true := by
  unfold headerInstr
  split
  · rfl
  · rename_i hrec
    simpa [Instr.wf, -not_and, ← Decidable.not_and_iff_or_not] using hrec

@[simp] theorem encode_headerInstr (c i l h : Byte) :
    encode (headerInstr c i l h) = headerBytes c i l h := by
  unfold headerInstr
  split <;> simp_all [encode]

@[simp] theorem decodeHeader_headerBytes (c i l h : Byte) (rest : List Byte) :
    decodeHeader (headerBytes c i l h ++ rest) = .ok (headerInstr c i l h, rest) := rfl

/-- The header decoder answers exactly on a sync pair followed by four bytes. -/
theorem decodeHeader_eq_ok {bytes rest : List Byte} {j : Instr}
    (hok : decodeHeader bytes = .ok (j, rest)) :
    ∃ c i l h, bytes = headerBytes c i l h ++ rest ∧ j = headerInstr c i l h := by
  unfold decodeHeader at hok
  split at hok
  · rename_i s1 s2 c i l h more
    split_ifs at hok with h1 h2
    obtain ⟨rfl, rfl⟩ : headerInstr c i l h = j ∧ more = rest := by simpa using hok
    exact ⟨c, i, l, h, by simp_all [headerBytes], rfl⟩
  · cases hok

/-! Encode and decode -/

/-- Settles O28: a header row's bytes are the header decoder's, and a byte row that selects the
operation is the one the dispatch takes. -/
theorem decodeOfEncode : Obligations.DecodeOfEncode := by
  intro i rest hwf
  refine ⟨fun hrow => ?_, fun d b hsel => ?_⟩
  · cases i
    case frameHeader c j l h =>
      have hplain : headerInstr c j l h = .frameHeader c j l h :=
        if_neg (by simpa [Instr.wf, Decidable.imp_iff_not_or] using hwf)
      rw [← hplain, encode_headerInstr, decodeHeader_headerBytes]
    case frameRecognized l h => exact decodeHeader_headerBytes _ _ l h rest
    all_goals cases hrow
  · rw [encode_of_selects hsel, ← decodeByte_of_selects hsel]
    rfl

/-- Settles O29: the byte decoder answers an operation its row selects, the header decoder a header. -/
theorem encodeOfDecode : Obligations.EncodeOfDecode := by
  refine fun bytes rest i => ⟨fun d hok => ?_, fun hok => ?_⟩
  · cases bytes with
    | nil => cases hok
    | cons b more =>
      obtain ⟨rfl, rfl⟩ : decodeByte d b = i ∧ more = rest := by simpa [decode] using hok
      exact ⟨wf_of_selects (selects_decodeByte d b), by rw [encode_decodeByte]; rfl⟩
  · obtain ⟨c, j, l, h, rfl, rfl⟩ := decodeHeader_eq_ok hok
    exact ⟨headerInstr_wf c j l h, by rw [encode_headerInstr]⟩

/-- Settles O25: the table's columns are the conditions of the dispatch's branch. -/
theorem exactlyOneRowSelects : Obligations.ExactlyOneRowSelects :=
  fun _ _ _ => decodeByte_eq_iff_selects.symm

/-- Registers in which the row of a well-formed byte operation selects it. -/
def selectingState : Instr → Decoder
  | .s2Hit | .s2Miss _ => { Decoder.initial with st := .awaitSync2 }
  | .cls _ => { Decoder.initial with st := .readClass }
  | .ident _ => { Decoder.initial with st := .readId }
  | .lenLo _ => { Decoder.initial with st := .readLengthLow }
  | .lenHiZero _ => { Decoder.initial with st := .readLengthHigh }
  | .lenHiOk b => { Decoder.initial with st := .readLengthHigh, len := BitVec.ofNat 16 (1 - b.toNat) }
  | .lenHiOver _ => { Decoder.initial with st := .readLengthHigh, len := 1 }
  | .payGuard _ => { Decoder.initial with st := .readPayload, idx := 256 }
  | .payLast _ => { Decoder.initial with st := .readPayload, len := 1 }
  | .payMore _ => { Decoder.initial with st := .readPayload }
  | .cka _ => { Decoder.initial with st := .readChecksumA }
  | .ckbRec b => { Decoder.initial with st := .readChecksumB, ckb := b, cls := 1, id := 7, len := 84 }
  | .ckbShort b => { Decoder.initial with st := .readChecksumB, ckb := b, cls := 1, id := 7 }
  | .ckbOther b => { Decoder.initial with st := .readChecksumB, ckb := b }
  | .ckbBad _ => { Decoder.initial with st := .readChecksumB, rxCka := 1 }
  | .s1Hit | .s1Miss _ | .frameHeader _ _ _ _ | .frameRecognized _ _ => Decoder.initial

theorem selects_selectingState {i : Instr} (hrow : i.row ≠ none) (hwf : i.wf = true) :
    ∃ b, selects (selectingState i) b i = true := by
  cases i
  case frameHeader | frameRecognized => exact absurd rfl hrow
  case s1Hit => exact ⟨0xB5, by decide⟩
  case s2Hit => exact ⟨0x62, by decide⟩
  case lenHiZero b | lenHiOk b | lenHiOver b =>
    have hlen (n : Half) : (lenWithHigh n b).toNat = n.toNat % 256 + 256 * b.toNat :=
      lenWithHigh_toNat n b
    refine ⟨b, decodeByte_eq_iff_selects.mp ?_⟩
    refine (decodeByte_eq_iff_of_openRow rfl rfl).mpr ⟨rfl, rfl, ?_⟩
    simp only [Instr.wf, beq_iff_eq, bne_iff_ne, Bool.or_eq_true] at hwf
    simp only [Instr.guard, selectingState, hlen, Decoder.initial_len, Bool.and_eq_true,
      decide_eq_true_eq, beq_iff_eq, Config.cap_eq]
    bv_omega
  all_goals
    rename_i b
    refine ⟨b, ?_⟩
    simp_all [selects, Instr.row, Instr.guard, encode, selectingState, Instr.wf]

/-- Settles O30: the operands R80 admits are those some guard admits. -/
theorem wellFormedExactlySelectable : Obligations.WellFormedExactlySelectable := by
  refine fun i hrow => ⟨fun hwf => ?_, ?_⟩
  · obtain ⟨b, hsel⟩ := selects_selectingState hrow hwf
    exact ⟨selectingState i, b, decodeByte_of_selects hsel⟩
  · rintro ⟨d, b, rfl⟩
    exact wf_of_selects (selects_decodeByte d b)

/-- Settles O27: nine words and the registers they are read in, evaluated. -/
theorem writtenOutWordsDecode : Obligations.WrittenOutWordsDecode := by
  refine ⟨?_, ?_, ?_, ?_, ?_, ?_, ?_, ?_, ?_⟩ <;> decide

/-! Table words -/

/-- The next step runs the row of a header unit. -/
theorem Machine.step_header {s : State} {c i l h : Byte} {rest : List Stimulus}
    (hs : s.source = .header c i l h :: rest) :
    step s = exec (headerInstr c i l h) { s with source := rest } := by
  simp [step, fetch_header hs]

/-- The next step runs the operation a presented byte selects. -/
theorem Machine.step_byte {s : State} {b : Byte} {rest : List Stimulus}
    (hs : s.source = .cycle false true b :: rest) :
    step s = exec (decodeByte s.dec b) { s with source := rest } := by
  simp [step, fetch_byte hs]

/-- An 8-bit word is read by the state alone: the other registers do not matter (log 10). -/
theorem decodeByte_wordState (d : Decoder) (b : Byte) :
    decodeByte { d with st := wordState b } b =
      if b = Config.sync1 then .s1Hit else if b = Config.sync2 then .s2Hit else .s1Miss b := by
  by_cases h1 : b = Config.sync1
  · subst h1; rfl
  · by_cases h2 : b = Config.sync2
    · subst h2; rfl
    · rw [if_neg h1, if_neg h2, wordState, if_neg h2]
      exact if_neg h1

theorem decodeTableWord_byte (b : Byte) : decodeTableWord 8 b.toNat =
    some (if b = Config.sync1 then .s1Hit else if b = Config.sync2 then .s2Hit else .s1Miss b) := by
  rw [← decodeByte_wordState Decoder.initial b]
  simp [decodeTableWord]

theorem Machine.State.withFetchWord_byte (s : State) (b : Byte) :
    s.withFetchWord 8 b.toNat =
      { s with dec := { s.dec with st := wordState b }, source := .cycle false true b :: s.source } := by
  simp only [State.withFetchWord, decodeTableWord_byte]
  split_ifs <;> simp

/-- The six bytes of a header as one number, the first to arrive uppermost (R70, log 10). -/
def headerWord (c j l h : Byte) : Nat :=
  ((((0xB5 * 256 + 0x62) * 256 + c.toNat) * 256 + j.toNat) * 256 + l.toNat) * 256 + h.toNat

theorem wordBytes_headerWord (c j l h : Byte) :
    wordBytes (headerWord c j l h) = headerBytes c j l h := by
  have byte_eq {n : Nat} {x : Byte} (hx : n % 256 = x.toNat) : BitVec.ofNat 8 n = x :=
    BitVec.eq_of_toNat_eq (by simpa using hx)
  have hsync1 : Config.sync1.toNat = 0xB5 := rfl
  have hsync2 : Config.sync2.toNat = 0x62 := rfl
  simp only [wordBytes, headerBytes, List.map_cons, List.map_nil, Nat.shiftRight_eq_div_pow,
    headerWord, List.cons.injEq, and_true]
  refine ⟨byte_eq ?_, byte_eq ?_, byte_eq ?_, byte_eq ?_, byte_eq ?_, byte_eq ?_⟩ <;> omega

theorem decodeTableWord_header (c j l h : Byte) :
    decodeTableWord 48 (headerWord c j l h) = some (headerInstr c j l h) := by
  have hdec : decodeHeader (wordBytes (headerWord c j l h)) = .ok (headerInstr c j l h, []) := by
    rw [wordBytes_headerWord]; rfl
  simp [decodeTableWord, hdec]

theorem Machine.State.withFetchWord_header (s : State) (c j l h : Byte) :
    s.withFetchWord 48 (headerWord c j l h) = { s with source := .header c j l h :: s.source } := by
  simp only [State.withFetchWord, decodeTableWord_header]
  by_cases hrec : c = Config.recClass ∧ j = Config.recId
  · obtain ⟨rfl, rfl⟩ := hrec
    rfl
  · rw [headerInstr, if_neg hrec]

/-- Settles O31: `withFetchWord` presents the word's byte or header, which the next step takes. -/
theorem fetchWordRunsNext : Obligations.FetchWordRunsNext := by
  refine ⟨fun s b i hi => ?_, fun s c j l h => ⟨headerInstr c j l h, ?_, ?_, ?_⟩⟩
  · rw [decodeTableWord_byte, Option.some.injEq] at hi
    rw [State.withFetchWord_byte, step_byte rfl, decodeByte_wordState, hi]
    rfl
  · exact decodeTableWord_header c j l h
  · exact encode_headerInstr c j l h
  · exact (congrArg step (State.withFetchWord_header s c j l h)).trans (step_header rfl)

/-- Settles O21: the decoders read from the presented bytes what the step runs. -/
theorem stepRunsDecodedInstruction : Obligations.StepRunsDecodedInstruction := by
  refine ⟨fun s b rest i more hs hdec => ?_, fun s c j l h rest i more hs hdec => ?_⟩
  · obtain rfl : decodeByte s.dec b = i := by simpa [decode] using hdec
    exact step_byte hs
  · obtain rfl : headerInstr c j l h = i :=
      congrArg Prod.fst (Except.ok.inj ((decodeHeader_headerBytes c j l h more).symm.trans hdec))
    exact step_header hs

end Sys2Proof

/-! PROOFS. The remaining byte operations (spec/40_sync_header.md R103 to R110, spec/41_payload_checksum.md
R126 to R136): when each is selected, read off its table row, and what it does. -/

namespace Sys2Proof

open Machine

/-! The sync search and the frame header -/

/-- Settles O4: the guard of S2.MISS excludes 0x62 only, and its effect is the full reset (R103). -/
theorem s2MissStrictReset : Obligations.S2MissStrictReset := by
  refine ⟨fun d b x => ?_, fun b s => exec_of_effect rfl⟩
  simp [decodeByte_eq_iff_of_openRow (i := .s2Miss x) rfl rfl, Instr.guard]

/-- Settles O7: the row of LENLO is open and unguarded, and its effect is R106's store and fold. -/
theorem lenLoSetsLowByte : Obligations.LenLoSetsLowByte := by
  refine ⟨fun d b x => ?_, fun b s => ?_⟩
  · simp [decodeByte_eq_iff_of_openRow (i := .lenLo x) rfl rfl, Instr.guard]
  · have hlen : lenFromLow b = BitVec.ofNat 16 b.toNat := (BitVec.ofNat_toNat 16 b).symm
    rw [exec_of_effect (i := .lenLo b) rfl, hlen]
    rfl

/-- Settles O10: the guard of LENHI.OVER (R110), with the assembled length written as a number. -/
theorem lenHiOverDropsFrame : Obligations.LenHiOverDropsFrame := by
  refine ⟨fun d b x => ?_, fun b s => exec_of_effect rfl⟩
  rw [decodeByte_eq_iff_of_openRow (i := .lenHiOver x) rfl rfl]
  simp [Instr.guard, lenWithHigh_toNat]

/-! The payload -/

/-- What PAY.MORE and PAY.LAST begin with, as numbers: the store at `idx`, the fold, the count (R126). -/
theorem Machine.Decoder.storePayload_stores {d : Decoder} (hwf : d.pay.wf = true)
    (hlt : d.idx.toNat < 256) (b : Byte) :
    ∃ d', d.storePayload b = some d' ∧
      d' = { d with
        pay := d'.pay, cka := d.cka + b, ckb := d.ckb + (d.cka + b)
        idx := BitVec.ofNat 9 (d.idx.toNat + 1) } ∧
      ∀ a, d'.pay.readByte a = if a = d.idx.toNat then b else d.pay.readByte a := by
  refine ⟨_, Decoder.storePayload_of_lt hlt, ?_, fun a => Memory.readByte_writeByte hwf _ a b⟩
  have hidx : d.idx + 1 = BitVec.ofNat 9 (d.idx.toNat + 1) := by
    rw [← Decoder.idx_succ_toNat hlt, BitVec.ofNat_toNat, BitVec.setWidth_eq]
  rw [hidx]
  rfl

/-- A row's operation without an effect stops by name; it is a store without room (log 5). -/
theorem Machine.exec_of_effect_none {i : Instr} {s : State} (hrow : i.row ≠ none)
    (h : effect s.dec i = none) : exec i s = .fault .payloadOutOfBounds := by
  rw [exec_of_row hrow, h]

theorem Machine.storePayload_outOfBounds {d : Decoder} (h : 256 ≤ d.idx.toNat) (b : Byte) :
    d.storePayload b = none :=
  Decoder.storePayload_of_atCapacity (decide_eq_true h)

/-- Settles O11: the guard of PAY.MORE, the store below the capacity, the stop from it up. -/
theorem payMoreStoresOneByte : Obligations.PayMoreStoresOneByte := by
  refine ⟨fun d b x => ?_, fun b s hwf hlt => ?_, fun b s h => exec_of_effect_none nofun ?_⟩
  · simp [decodeByte_eq_iff_of_openRow (i := .payMore x) rfl rfl, Instr.guard]
  · obtain ⟨d', hstore, heq, hread⟩ := Decoder.storePayload_stores hwf hlt b
    refine ⟨s.commit d' Output.silent, exec_of_effect (by simp [effect, hstore]), ?_, hread⟩
    exact congrArg (fun d => s.commit d Output.silent) heq
  · simp [effect, storePayload_outOfBounds h]

/-- Settles O12: the guard of PAY.LAST, the store below the capacity, the stop from it up. -/
theorem payLastCompletesPayload : Obligations.PayLastCompletesPayload := by
  refine ⟨fun d b x => ?_, fun b s hwf hlt => ?_, fun b s h => exec_of_effect_none nofun ?_⟩
  · simp [decodeByte_eq_iff_of_openRow (i := .payLast x) rfl rfl, Instr.guard]
  · obtain ⟨d', hstore, heq, hread⟩ := Decoder.storePayload_stores hwf hlt b
    refine ⟨s.commit (d'.goto .readChecksumA) Output.silent,
      exec_of_effect (by simp [effect, hstore]), ?_, hread⟩
    exact congrArg (fun d => s.commit (d.goto .readChecksumA) Output.silent) heq
  · simp [effect, storePayload_outOfBounds h]

/-- Settles O13: the guard of PAY.GUARD, and the full reset without a store (R128). -/
theorem payGuardResetsAtCapacity : Obligations.PayGuardResetsAtCapacity := by
  refine ⟨fun d b x => ?_, fun b s => exec_of_effect rfl⟩
  simp [decodeByte_eq_iff_of_openRow (i := .payGuard x) rfl rfl, Instr.guard]

/-! The received checksum -/

/-- Settles O15: the guard of CKB.REC, and the Record of the buffer before the full reset (R133). -/
theorem ckbRecYieldsRecord : Obligations.CkbRecYieldsRecord := by
  refine ⟨fun d b x => ?_, fun b s => exec_of_effect rfl⟩
  simp [decodeByte_eq_iff_of_openRow (i := .ckbRec x) rfl rfl, Instr.guard, and_assoc]

/-- Settles O16: the guard of CKB.SHORT, and the full reset (R134). -/
theorem ckbShortDropsSilently : Obligations.CkbShortDropsSilently := by
  refine ⟨fun d b x => ?_, fun b s => exec_of_effect rfl⟩
  simp [decodeByte_eq_iff_of_openRow (i := .ckbShort x) rfl rfl, Instr.guard, and_assoc]

/-- Settles O17: the guard of CKB.OTHER, and the full reset (R135). -/
theorem ckbOtherSwallowsFrame : Obligations.CkbOtherSwallowsFrame := by
  refine ⟨fun d b x => ?_, fun b s => exec_of_effect rfl⟩
  rw [decodeByte_eq_iff_of_openRow (i := .ckbOther x) rfl rfl]
  simp [Instr.guard, and_assoc, Decidable.imp_iff_not_or]

/-- Settles O18: the guard of CKB.BAD, and the full reset with `ck_err` (R136, R204). -/
theorem ckbBadRaisesCkErr : Obligations.CkbBadRaisesCkErr := by
  refine ⟨fun d b x => ?_, fun b s => exec_of_effect rfl⟩
  rw [decodeByte_eq_iff_of_openRow (i := .ckbBad x) rfl rfl]
  simp [Instr.guard]

/-! The terminal operations -/

/-- A terminal operation's effect is the full reset, whatever the registers (R41). -/
theorem Machine.effect_of_isTerminal {i : Instr} (h : isTerminal i = true) (d : Decoder) :
    ∃ o, effect d i = some (Decoder.initial, o) := by
  cases i
  case s2Miss | lenHiOver | payGuard | ckbRec | ckbShort | ckbOther | ckbBad => exact ⟨_, rfl⟩
  all_goals cases h

/-- Settles O41: every terminal operation commits the full reset. -/
theorem terminalOperationsResetFully : Obligations.TerminalOperationsResetFully := by
  intro i s h
  obtain ⟨o, ho⟩ := effect_of_isTerminal h s.dec
  exact ⟨o, exec_of_effect ho⟩

end Sys2Proof

/-! PROOFS. Byte streams (spec/00_scope.md R15) and the cycle (spec/10_state.md R30, R230): what a list of
bytes does to the registers, and every step as one of a reset, a pause or such a list. -/

namespace Sys2Proof

namespace Machine

/-! What a byte list does to the registers -/

/-- The bytes `bs`, consumed one after another from the registers `d`, lead to `d'` and put out `os`. -/
inductive Runs : Decoder → List Byte → Decoder → List Output → Prop
  | nil (d : Decoder) : Runs d [] d []
  | cons {d d₁ d' : Decoder} {b : Byte} {bs : List Byte} {o : Output} {os : List Output}
      (first : effect d (decodeByte d b) = some (d₁, o)) (later : Runs d₁ bs d' os) :
      Runs d (b :: bs) d' (o :: os)

theorem Runs.single {d d' : Decoder} {b : Byte} {o : Output}
    (h : effect d (decodeByte d b) = some (d', o)) : Runs d [b] d' [o] :=
  .cons h (.nil d')

theorem Runs.append {d d₁ d' : Decoder} {xs ys : List Byte} {os ps : List Output}
    (h : Runs d xs d₁ os) (h' : Runs d₁ ys d' ps) : Runs d (xs ++ ys) d' (os ++ ps) := by
  induction h with
  | nil => exact h'
  | cons first _ ih => exact .cons first (ih h')

/-- Every byte list runs from every state of the registers (R81, R84). -/
theorem Runs.total (d : Decoder) (bs : List Byte) : ∃ d' os, Runs d bs d' os := by
  induction bs generalizing d with
  | nil => exact ⟨d, [], .nil d⟩
  | cons b bs ih =>
    obtain ⟨d₁, o, first⟩ := effect_decodeByte d b
    obtain ⟨d', os, later⟩ := ih d₁
    exact ⟨d', o :: os, .cons first later⟩

theorem Runs.length {d d' : Decoder} {bs : List Byte} {os : List Output} (h : Runs d bs d' os) :
    os.length = bs.length := by
  induction h with
  | nil => rfl
  | cons _ _ ih => simp [ih]

/-- What every byte keeps, every byte list keeps. -/
theorem Runs.keeps {P : Decoder → Prop}
    (hbyte : ∀ {d b d' o}, P d → effect d (decodeByte d b) = some (d', o) → P d')
    {d d' : Decoder} {bs : List Byte} {os : List Output} (h : Runs d bs d' os) (hd : P d) : P d' := by
  induction h with
  | nil => exact hd
  | cons first _ ih => exact ih (hbyte hd first)

/-- What every byte's output meets, every output of a byte list meets. -/
theorem Runs.forall_outputs {P : Output → Prop}
    (hbyte : ∀ {d b d' o}, effect d (decodeByte d b) = some (d', o) → P o)
    {d d' : Decoder} {bs : List Byte} {os : List Output} (h : Runs d bs d' os) : ∀ o ∈ os, P o := by
  induction h with
  | nil => simp
  | cons first _ ih => exact List.forall_mem_cons.mpr ⟨hbyte first, ih⟩

/-! Byte lists and the machine -/

theorem consumeByte_of_effect {s : State} {b : Byte} {d' : Decoder} {o : Output}
    (h : effect s.dec (decodeByte s.dec b) = some (d', o)) :
    consumeByte b s = .next (s.commit d' o) := by
  rw [consumeByte_eq_exec, exec_of_effect h]

theorem Runs.feed_eq {d d' : Decoder} {bs : List Byte} {os : List Output} (h : Runs d bs d' os)
    {s : State} (hs : s.dec = d) :
    feed bs s = .next { s with dec := d', out := os.getLastD s.out, sink := s.sink ++ os } := by
  induction h generalizing s with
  | nil => subst hs; simp
  | cons first later ih =>
    subst hs
    rw [feed_cons_of_next (consumeByte_of_effect first), ih rfl, List.getLastD_cons,
      List.append_cons]
    rfl

/-- The run behind a fed byte list. -/
theorem runs_of_feed {bs : List Byte} {s t : State} (h : feed bs s = .next t) :
    ∃ os, Runs s.dec bs t.dec os := by
  obtain ⟨d', os, hruns⟩ := Runs.total s.dec bs
  obtain rfl := Host.Outcome.next.inj ((hruns.feed_eq rfl).symm.trans h)
  exact ⟨os, hruns⟩

/-- A step on a presented byte is R82's dispatch with the byte taken from the source. -/
theorem step_stream_cons (b : Byte) (bs : List Byte) (s : State) :
    step { s with source := stream (b :: bs) ++ s.source } =
      consumeByte b { s with source := stream bs ++ s.source } := by
  rw [consumeByte_eq_exec, step_byte (by rw [stream_cons, List.cons_append])]

end Machine

open Machine

/-- Settles O26, by induction on the bytes: each step takes one off the stream and commits. -/
theorem streamStepsAreRun : Obligations.StreamStepsAreRun := by
  intro bytes
  induction bytes with
  | nil => exact fun s => rfl
  | cons b bs ih =>
    intro s
    obtain ⟨d', o, hcommit⟩ := consumeByte_commits s.dec b
    have hstep : step { s with source := stream (b :: bs) ++ s.source } =
        .next { s.commit d' o with source := stream bs ++ (s.commit d' o).source } :=
      (step_stream_cons b bs s).trans (hcommit _ rfl)
    rw [feed_cons_of_next (hcommit s rfl), ← ih, List.length_cons, steps, hstep]

namespace Machine

/-- A presented byte list, step by step. -/
theorem Runs.steps_eq {d d' : Decoder} {bs : List Byte} {os : List Output} {s : State}
    {rest : List Stimulus} (h : Runs d bs d' os) (hd : s.dec = d)
    (hs : s.source = stream bs ++ rest) :
    steps bs.length s = .next ⟨d', os.getLastD s.out, rest, s.sink ++ os⟩ := by
  obtain ⟨dec, out, source, sink⟩ := s
  subst hs
  exact (streamStepsAreRun bs ⟨dec, out, rest, sink⟩).trans (h.feed_eq hd)

/-- The same with the last output apart, which is the one presented. -/
theorem Runs.steps_snoc {d d' : Decoder} {bs : List Byte} {os : List Output} {o : Output} {s : State}
    {rest : List Stimulus} (h : Runs d bs d' (os ++ [o])) (hd : s.dec = d)
    (hs : s.source = stream bs ++ rest) :
    steps bs.length s = .next ⟨d', o, rest, s.sink ++ os ++ [o]⟩ := by
  rw [h.steps_eq hd hs, List.getLastD_concat, List.append_assoc]

/-! The cycle -/

/-- The bytes the next step consumes; no list where it is a hard reset. -/
def presented : List Stimulus → Option (List Byte)
  | [] => some []
  | .cycle true _ _ :: _ => none
  | .cycle false false _ :: _ => some []
  | .cycle false true b :: _ => some [b]
  | .header c i l h :: _ => some (headerBytes c i l h)

theorem step_hardReset {s : State} {v : Bool} {b : Byte} {rest : List Stimulus}
    (hs : s.source = .cycle true v b :: rest) :
    step s = .next ⟨Decoder.initial, Output.silent, rest, s.sink⟩ := by
  simp only [step, fetch_hardReset hs, State.hardReset]

theorem step_idle {s : State} {b : Byte} {rest : List Stimulus}
    (hs : s.source = .cycle false false b :: rest) :
    step s = .next ⟨s.dec, Output.silent, rest, s.sink⟩ := by
  simp only [step, fetch_idle hs, State.idleCycle]

theorem step_nil {s : State} (hs : s.source = []) :
    step s = .next ⟨s.dec, Output.silent, [], s.sink⟩ := by
  simp only [step, fetch_nil hs, State.idleCycle, hs]

theorem exec_headerInstr (c i l h : Byte) (s : State) :
    exec (headerInstr c i l h) s = feed (headerBytes c i l h) s := by
  unfold headerInstr
  split_ifs with hrec
  · obtain ⟨rfl, rfl⟩ := hrec
    rfl
  · rfl

/-- A hard reset consumes nothing and leaves the initial state (R230). -/
theorem step_of_presented_none {s : State} (h : presented s.source = none) :
    step s = .next ⟨Decoder.initial, Output.silent, s.source.tail, s.sink⟩ := by
  unfold presented at h
  split at h
  case h_2 hs => rw [step_hardReset hs, hs]; rfl
  all_goals cases h

/-- Every other step runs the bytes presented, of which there may be none, and the last one's output is
the one presented (R15, R30). -/
theorem step_of_presented {s : State} {bs : List Byte} {d' : Decoder} {os : List Output}
    (h : presented s.source = some bs) (hruns : Runs s.dec bs d' os) :
    step s = .next ⟨d', os.getLastD Output.silent, s.source.tail, s.sink ++ os⟩ := by
  unfold presented at h
  split at h <;> cases h
  case h_1 hs => cases hruns; rw [step_nil hs, hs, List.append_nil]; rfl
  case h_3 b rest hs => cases hruns; rw [step_idle hs, hs, List.append_nil]; rfl
  case h_4 b rest hs =>
    rw [step_byte hs, hs]
    cases hruns with
    | cons first later => cases later; exact exec_of_effect first
  case h_5 c i l h rest hs =>
    rw [step_header hs, exec_headerInstr, hruns.feed_eq (s := { s with source := rest }) rfl, hs]
    cases hruns
    simp only [List.getLastD_cons, List.tail_cons]

/-- The step of a byte is its operation's effect on the registers. -/
theorem effect_of_step_byte {s t : State} {b : Byte} {rest : List Stimulus}
    (hs : s.source = .cycle false true b :: rest) (h : step s = .next t) :
    effect s.dec (decodeByte s.dec b) = some (t.dec, t.out) := by
  obtain ⟨d', o, heffect⟩ := effect_decodeByte s.dec b
  rw [step_byte hs, exec_of_effect (s := { s with source := rest }) heffect] at h
  obtain rfl := Host.Outcome.next.inj h
  exact heffect

/-- What the step of `s` to `t` has done: a hard reset, or the run of the bytes presented. -/
theorem step_cases {s t : State} (h : step s = .next t) :
    t = ⟨Decoder.initial, Output.silent, s.source.tail, s.sink⟩ ∨
    ∃ bs os, presented s.source = some bs ∧ Runs s.dec bs t.dec os ∧
      t = ⟨t.dec, os.getLastD Output.silent, s.source.tail, s.sink ++ os⟩ := by
  cases hp : presented s.source with
  | none => exact .inl (Host.Outcome.next.inj (h.symm.trans (step_of_presented_none hp)))
  | some bs =>
    obtain ⟨d', os, hruns⟩ := Runs.total s.dec bs
    obtain rfl := Host.Outcome.next.inj (h.symm.trans (step_of_presented hp hruns))
    exact .inr ⟨bs, os, rfl, hruns, rfl⟩

/-- What a hard reset leaves and every byte keeps, every step keeps. -/
theorem step_keeps {P : Decoder → Prop} (hreset : P Decoder.initial)
    (hbyte : ∀ {d b d' o}, P d → effect d (decodeByte d b) = some (d', o) → P d')
    {s t : State} (hs : P s.dec) (h : step s = .next t) : P t.dec := by
  obtain rfl | ⟨bs, os, -, hruns, -⟩ := step_cases h
  · exact hreset
  · exact hruns.keeps hbyte hs

end Machine

/-- Settles O22: the hard reset comes before `in_valid` and the byte (R230). -/
theorem hardResetBeatsEverything : Obligations.HardResetBeatsEverything :=
  fun _ _ _ _ hs => step_hardReset hs

/-- Settles O23: a pause, and an exhausted source (log 1), hold the registers. -/
theorem idleHoldsState : Obligations.IdleHoldsState :=
  ⟨fun _ _ _ hs => step_idle hs, fun s hs => by rw [step_nil hs, hs]; rfl⟩

/-- Settles O24: a reset is total, and the bytes presented run from every state. -/
theorem everyStepCompletes : Obligations.EveryStepCompletes := by
  intro s
  cases hp : presented s.source with
  | none => exact ⟨_, step_of_presented_none hp, rfl⟩
  | some bs =>
    obtain ⟨d', os, hruns⟩ := Runs.total s.dec bs
    exact ⟨_, step_of_presented hp hruns, rfl⟩

/-- A header unit lists six outputs and is six steps on its bytes. -/
theorem Machine.feed_headerBytes (c i l h : Byte) (s : State) :
    ∃ t, feed (headerBytes c i l h) s = .next t ∧
      steps 6 { s with source := stream (headerBytes c i l h) ++ s.source } = .next t ∧
      t.source = s.source ∧ t.sink.length = s.sink.length + 6 := by
  obtain ⟨d', os, hruns⟩ := Runs.total s.dec (headerBytes c i l h)
  have hfeed := hruns.feed_eq (s := s) rfl
  refine ⟨_, hfeed, (streamStepsAreRun (headerBytes c i l h) s).trans hfeed, rfl, ?_⟩
  rw [List.length_append, hruns.length, headerBytes_length]

/-- Settles O19: both header rows feed their six bytes, and feeding is stepping (`streamStepsAreRun`). -/
theorem frameHeaderIsItsSixBytes : Obligations.FrameHeaderIsItsSixBytes :=
  ⟨feed_headerBytes, feed_headerBytes 0x01 0x07⟩

end Sys2Proof

/-! PROOFS. What one byte puts out (spec/60_exceptions.md R200 to R212) and which registers it moves
(spec/10_state.md R22, R41, R43; spec/40_sync_header.md R111, spec/41_payload_checksum.md R139). -/

namespace Sys2Proof

/-! The outputs -/

namespace Machine

/-- The output of an operation executed with the registers `d`. -/
def outputOf (d : Decoder) : Instr → Output
  | .s1Miss _ | .s2Miss _ => Output.silent.raise .framingError
  | .lenHiOver _ => Output.silent.raise .oversizeError
  | .payGuard _ => Output.silent.raise .guardTrip
  | .ckbRec _ => { Output.silent with record := some (decodeRecord d.pay) }
  | .ckbShort _ => Output.silent.raise .shortPayloadError
  | .ckbOther _ => Output.silent.raise .swallowed
  | .ckbBad _ => Output.silent.raise .checksumError
  | _ => Output.silent

theorem output_of_effect {d d' : Decoder} {i : Instr} {o : Output}
    (h : effect d i = some (d', o)) : o = outputOf d i := by
  cases i
  case payLast | payMore =>
    obtain ⟨_, _, heq⟩ := Option.map_eq_some_iff.mp h
    exact (congrArg Prod.snd heq).symm
  case frameHeader | frameRecognized => cases h
  all_goals cases h; rfl

theorem outputOf_record {d : Decoder} {i : Instr} {r : Record} :
    (outputOf d i).record = some r ↔ (∃ x, i = .ckbRec x) ∧ r = decodeRecord d.pay := by
  cases i <;> simp [outputOf, eq_comm]

theorem outputOf_ckErr {d : Decoder} {i : Instr} :
    (outputOf d i).ckErr = true ↔ ∃ x, i = .ckbBad x := by
  cases i <;> simp [outputOf]

/-- The operations that raise a class or event (R200, R202). -/
def raises : StepLabel → Instr → Prop
  | .framingError, i => (∃ x, i = .s1Miss x) ∨ ∃ x, i = .s2Miss x
  | .oversizeError, i => ∃ x, i = .lenHiOver x
  | .checksumError, i => ∃ x, i = .ckbBad x
  | .shortPayloadError, i => ∃ x, i = .ckbShort x
  | .swallowed, i => ∃ x, i = .ckbOther x
  | .guardTrip, i => ∃ x, i = .payGuard x

theorem outputOf_label {d : Decoder} {i : Instr} {e : StepLabel} :
    (outputOf d i).label = some e ↔ raises e i := by
  cases e <;> cases i <;> simp [outputOf, raises]

/-- Only CKB.REC puts out a Record and only CKB.BAD `ck_err` (R212). -/
theorem outputOf_exclusive (d : Decoder) (i : Instr) :
    ¬((outputOf d i).record.isSome = true ∧ (outputOf d i).ckErr = true) := by
  rintro ⟨hrecord, hckErr⟩
  obtain ⟨r, hr⟩ := Option.isSome_iff_exists.mp hrecord
  obtain ⟨⟨x, rfl⟩, -⟩ := outputOf_record.mp hr
  obtain ⟨y, hy⟩ := outputOf_ckErr.mp hckErr
  cases hy

/-- The output a step presents for a byte is its operation's. -/
theorem out_of_step_byte {s t : State} {b : Byte} {rest : List Stimulus}
    (hs : s.source = .cycle false true b :: rest) (h : step s = .next t) :
    t.out = outputOf s.dec (decodeByte s.dec b) :=
  output_of_effect (effect_of_step_byte hs h)

end Machine

open Machine

/-- Settles O36: a Record is CKB.REC's, whose row says when it is selected (`ckbRecYieldsRecord`). -/
theorem recordExactlyWhenFrameCompletes : Obligations.RecordExactlyWhenFrameCompletes := by
  intro s t b rest r hs h
  simp [out_of_step_byte hs h, outputOf_record, ckbRecYieldsRecord.1, and_assoc]

/-- Settles O37: `ck_err` is CKB.BAD's (`ckbBadRaisesCkErr`), and without a byte the outputs are 0. -/
theorem ckErrExactlyOnMismatch : Obligations.CkErrExactlyOnMismatch := by
  refine ⟨fun s t b rest hs h => ?_, fun s t r v b rest hs hno h => ?_⟩
  · simp [out_of_step_byte hs h, outputOf_ckErr, ckbBadRaisesCkErr.1]
  · have hquiet : t.out = Output.silent ∧ t.sink = s.sink := by
      cases r with
      | true =>
        obtain rfl := Host.Outcome.next.inj ((step_hardReset hs).symm.trans h)
        exact ⟨rfl, rfl⟩
      | false =>
        obtain rfl : v = false := by simpa using hno
        obtain rfl := Host.Outcome.next.inj ((step_idle hs).symm.trans h)
        exact ⟨rfl, rfl⟩
    obtain ⟨hout, hsink⟩ := hquiet
    exact ⟨congrArg Output.ckErr hout, congrArg Output.record hout, hsink⟩

/-- Settles O38: each label is that of its operations, whose rows say when they are selected. -/
theorem errorClassesByCause : Obligations.ErrorClassesByCause := by
  intro s t b rest hs h
  rw [out_of_step_byte hs h]
  simp only [outputOf_label]
  refine ⟨?_, ?_, ?_, ?_, ?_, ?_⟩
  · simp [raises, s1MissChangesNoRegister.1, s2MissStrictReset.1]
  · simp [raises, lenHiOverDropsFrame.1]
  · simp [raises, ckbBadRaisesCkErr.1]
  · simp [raises, ckbShortDropsSilently.1]
  · simp [raises, ckbOtherSwallowsFrame.1]
  · simp [raises, payGuardResetsAtCapacity.1]

/-- Settles O39: every output listed is some operation's, and the one presented is the last of them. -/
theorem neverRecordAndCkErr : Obligations.NeverRecordAndCkErr := by
  intro s t h
  obtain rfl | ⟨bs, os, -, hruns, ht⟩ := step_cases h
  · simp
  · have hos : ∀ o ∈ os, ¬(o.record.isSome = true ∧ o.ckErr = true) :=
      hruns.forall_outputs fun heffect => output_of_effect heffect ▸ outputOf_exclusive _ _
    have hlast : ∀ o ∈ Output.silent :: os, ¬(o.record.isSome = true ∧ o.ckErr = true) :=
      List.forall_mem_cons.mpr ⟨by simp, hos⟩
    rw [ht]
    refine ⟨hlast _ List.getLastD_mem_cons, ?_⟩
    simpa only [List.drop_left] using hos

/-! The registers: the one list of what a byte can do to them -/

namespace Machine

/-- The registers after a payload byte is stored: R126, and R127 where it is the last. -/
def Decoder.stored (b : Byte) (d : Decoder) : Decoder :=
  { { d with pay := d.pay.writeByte d.idx.toNat b }.fold b with
    idx := d.idx + 1, st := if d.atLast then .readChecksumA else .readPayload }

section
variable (b : Byte) (d : Decoder)

@[simp] theorem Decoder.stored_st :
    (d.stored b).st = if d.atLast then .readChecksumA else .readPayload := rfl
@[simp] theorem Decoder.stored_cls : (d.stored b).cls = d.cls := rfl
@[simp] theorem Decoder.stored_id : (d.stored b).id = d.id := rfl
@[simp] theorem Decoder.stored_len : (d.stored b).len = d.len := rfl
theorem Decoder.stored_idx : (d.stored b).idx = d.idx + 1 := rfl
@[simp] theorem Decoder.stored_rxCka : (d.stored b).rxCka = d.rxCka := rfl
@[simp] theorem Decoder.stored_rxCkb : (d.stored b).rxCkb = d.rxCkb := rfl
@[simp] theorem Decoder.stored_cka : (d.stored b).cka = (ckStep (d.cka, d.ckb) b).1 := rfl
@[simp] theorem Decoder.stored_ckb : (d.stored b).ckb = (ckStep (d.cka, d.ckb) b).2 := rfl
@[simp] theorem Decoder.stored_pay : (d.stored b).pay = d.pay.writeByte d.idx.toNat b := rfl

end

/-- Both payload operations store, where they are selected (R126, R127). -/
theorem effect_payload {d : Decoder} (b : Byte) (hst : d.st = .readPayload)
    (hlt : d.idx.toNat < Config.cap) :
    effect d (if d.atLast then .payLast b else .payMore b) = some (d.stored b, Output.silent) := by
  cases hlast : d.atLast <;>
    simp [effect, Decoder.storePayload_of_lt hlt, Decoder.stored, Decoder.goto, Decoder.fold, hst,
      hlast]

theorem decodeByte_payload {d : Decoder} (b : Byte) (hst : d.st = .readPayload)
    (hlt : d.idx.toNat < Config.cap) :
    decodeByte d b = if d.atLast then .payLast b else .payMore b := by
  have : d.atCapacity = false := by simpa [Decoder.atCapacity] using hlt
  simp [decodeByte, hst, this]

/-- What the byte `b` can make of the registers `d`, by the state it is consumed in; the terminal
operations are one case (R41). -/
inductive ByteStep (d : Decoder) (b : Byte) : Decoder → Prop
  | skip (hst : d.st = .awaitSync1) : ByteStep d b d
  | sync1 (hst : d.st = .awaitSync1) : ByteStep d b (d.goto .awaitSync2)
  | sync2 (hst : d.st = .awaitSync2) : ByteStep d b ({ d with cka := 0, ckb := 0 }.goto .readClass)
  | cls (hst : d.st = .readClass) : ByteStep d b (({ d with cls := b }.fold b).goto .readId)
  | ident (hst : d.st = .readId) : ByteStep d b (({ d with id := b }.fold b).goto .readLengthLow)
  | lenLo (hst : d.st = .readLengthLow) :
      ByteStep d b (({ d with len := lenFromLow b }.fold b).goto .readLengthHigh)
  | lenHiZero (hst : d.st = .readLengthHigh) (hlen : (lenWithHigh d.len b).toNat = 0) :
      ByteStep d b ((d.takeLenHigh b).goto .readChecksumA)
  | lenHiOk (hst : d.st = .readLengthHigh) (hpos : 1 ≤ (lenWithHigh d.len b).toNat)
      (hcap : (lenWithHigh d.len b).toNat ≤ Config.cap) :
      ByteStep d b ({ d.takeLenHigh b with idx := 0 }.goto .readPayload)
  | store (hst : d.st = .readPayload) (hlt : d.idx.toNat < Config.cap) :
      ByteStep d b (d.stored b)
  | cka (hst : d.st = .readChecksumA) : ByteStep d b ({ d with rxCka := b }.goto .readChecksumB)
  | restart (hst : .awaitSync1 ∈ d.st.successors) : ByteStep d b Decoder.initial

theorem byteStep_of_effect {d d' : Decoder} {b : Byte} {o : Output}
    (h : effect d (decodeByte d b) = some (d', o)) : ByteStep d b d' := by
  cases hst : d.st
  case readPayload =>
    by_cases hlt : d.idx.toNat < Config.cap
    · rw [decodeByte_payload b hst hlt, effect_payload b hst hlt] at h
      cases h
      exact .store hst hlt
    · have hfull : d.atCapacity = true := by simpa [Decoder.atCapacity] using hlt
      simp only [decodeByte, hst, hfull, if_true] at h
      cases h
      exact .restart (by simp [hst, StateName.successors])
  all_goals simp only [decodeByte, hst] at h
  case awaitSync1 => split_ifs at h <;> cases h; exacts [.sync1 hst, .skip hst]
  case awaitSync2 =>
    split_ifs at h <;> cases h
    exacts [.sync2 hst, .restart (by simp [hst, StateName.successors])]
  case readClass => cases h; exact .cls hst
  case readId => cases h; exact .ident hst
  case readLengthLow => cases h; exact .lenLo hst
  case readChecksumA => cases h; exact .cka hst
  case readLengthHigh =>
    split_ifs at h with hzero hcap <;> cases h
    · exact .lenHiZero hst (congrArg BitVec.toNat hzero)
    · exact .lenHiOk hst (by bv_omega) hcap
    · exact .restart (by simp [hst, StateName.successors])
  case readChecksumB =>
    split_ifs at h <;> cases h <;> exact .restart (by simp [hst, StateName.successors])

end Machine
end Sys2Proof

/-! PROOFS. What every byte keeps (spec/10_state.md R43, spec/20_memory.md R50): the buffer's canonical form,
the control transfer summaries (R111, R139) and the invariant of reachable states. -/

namespace Sys2Proof

open Machine

namespace Machine

/-! The buffer and the state register -/

theorem ByteStep.pay_wf {d d' : Decoder} {b : Byte} (h : ByteStep d b d') (hwf : d.pay.wf = true) :
    d'.pay.wf = true := by
  cases h with
  | store _ hlt => exact Memory.writeByte_wf hwf hlt b
  | restart => rfl
  | _ => exact hwf

theorem pay_wf_of_effect {d d' : Decoder} {b : Byte} {o : Output} (hwf : d.pay.wf = true)
    (h : effect d (decodeByte d b) = some (d', o)) : d'.pay.wf = true :=
  (byteStep_of_effect h).pay_wf hwf

theorem ByteStep.st_mem_successors {d d' : Decoder} {b : Byte} (h : ByteStep d b d') :
    d'.st ∈ d.st.successors := by
  cases h with
  | store hst => cases hlast : d.atLast <;> simp [hst, hlast, StateName.successors]
  | restart hst => exact hst
  | _ => simp_all [StateName.successors]

/-- Every operation of ReadChecksumB is terminal (R139). -/
theorem ByteStep.eq_initial_of_readChecksumB {d d' : Decoder} {b : Byte} (h : ByteStep d b d')
    (hst : d.st = .readChecksumB) : d' = Decoder.initial := by
  cases h with
  | restart => rfl
  | _ => simp_all

/-- The buffer is written at `idx` in ReadPayload or cleared with everything else (R62, R126). -/
theorem ByteStep.readByte_pay {d d' : Decoder} {b : Byte} (h : ByteStep d b d')
    (hwf : d.pay.wf = true) :
    d' = Decoder.initial ∨ ∀ a, d'.pay.readByte a =
      if d.st = .readPayload ∧ d.idx.toNat < 256 ∧ a = d.idx.toNat then b else d.pay.readByte a := by
  cases h with
  | restart => exact .inl rfl
  | store hst hlt =>
    have hlt' : d.idx.toNat < 256 := hlt
    refine .inr fun a => ?_
    simp only [hst, hlt', true_and]
    exact Memory.readByte_writeByte hwf _ a b
  | _ => exact .inr fun a => by simp_all [Decoder.takeLenHigh]

end Machine

/-- Settles O35: only a store below the capacity and the reset write the buffer. -/
theorem stepKeepsBufferCanonical : Obligations.StepKeepsBufferCanonical :=
  fun _ _ => step_keeps (P := fun d => d.pay.wf = true) rfl pay_wf_of_effect

/-- Settles O40: each case of what a byte can do goes to a listed successor. -/
theorem stateMovesOnlyToSuccessors : Obligations.StateMovesOnlyToSuccessors := by
  intro s t b rest hs h
  have hbyte := byteStep_of_effect (effect_of_step_byte hs h)
  exact ⟨hbyte.st_mem_successors, hbyte.eq_initial_of_readChecksumB⟩

/-- Settles O42: the store writes address `idx` alone, the reset everything. -/
theorem bufferWrittenOnlyAtIndex : Obligations.BufferWrittenOnlyAtIndex :=
  fun _ _ _ _ hwf hs h => (byteStep_of_effect (effect_of_step_byte hs h)).readByte_pay hwf

/-! The invariant of reachable states -/

namespace Machine

theorem inv_initial : Decoder.initial.Inv := by
  constructor
  case clear => exact fun _ _ => rfl
  all_goals decide

theorem inv_awaitSync2 : Decoder.Inv { Decoder.initial with st := .awaitSync2 } := by
  constructor
  case clear => exact fun _ _ => rfl
  all_goals decide

theorem inv_readClass : Decoder.Inv { Decoder.initial with st := .readClass } := by
  constructor
  case clear => exact fun _ _ => rfl
  all_goals decide

/-- The fold keeps the accumulators the checksum of the body (R43 (I4)). -/
theorem fold_checksum {d : Decoder} {xs : List Byte} (h : (d.cka, d.ckb) = ckOf xs) (b : Byte) :
    ckStep (d.cka, d.ckb) b = ckOf (xs ++ [b]) := by
  rw [ckOf_snoc, h]

/-- A store appends its byte to the payload. -/
theorem payload_stored {d : Decoder} (hwf : d.pay.wf = true) (hlt : d.idx.toNat < Config.cap)
    (b : Byte) : (d.stored b).payload = d.payload ++ [b] := by
  simp only [Decoder.payload, Decoder.stored_idx, Decoder.stored_pay, Decoder.idx_succ_toNat hlt,
    List.range_succ, List.map_append, List.map_cons, List.map_nil, Memory.readByte_writeByte hwf, if_true]
  congr 1
  refine List.map_congr_left fun a ha => ?_
  rw [Memory.readByte_writeByte hwf, if_neg (List.mem_range.mp ha).ne]

theorem inv_stored {d : Decoder} (hd : d.Inv) (hst : d.st = .readPayload) (b : Byte) :
    (d.stored b).Inv := by
  obtain ⟨-, hcap, hin⟩ := hd.filling hst
  have hlt : d.idx.toNat < Config.cap := hin.trans_le hcap
  have hidx : (d.stored b).idx.toNat = d.idx.toNat + 1 := Decoder.idx_succ_toNat hlt
  have hbody : (d.stored b).body = d.body ++ [b] := by
    cases hlast : d.atLast <;>
      simp [Decoder.body, hst, hlast, payload_stored hd.canonical hlt]
  have hclear (a : Nat) (ha : d.idx.toNat + 1 ≤ a) :
      (d.pay.writeByte d.idx.toNat b).readByte a = unlistedByte := by
    rw [Memory.readByte_writeByte hd.canonical, if_neg (by omega)]
    exact hd.clear a (by omega)
  have hwf := Memory.writeByte_wf hd.canonical hlt b
  have hck := fold_checksum hd.checksum b
  have hrxCka := hd.rxCka (by simp [hst])
  have hrxCkb := hd.rxCkb
  cases hlast : d.atLast
  · have hmore : d.idx.toNat + 1 < d.len.toNat :=
      lt_of_le_of_ne hin (by simpa [Decoder.atLast] using hlast)
    constructor <;> simp_all
    all_goals omega
  · have hfull : d.idx.toNat + 1 = d.len.toNat := by simpa [Decoder.atLast] using hlast
    constructor <;> simp_all

/-- Every byte keeps the invariant (R43). -/
theorem ByteStep.inv {d d' : Decoder} {b : Byte} (h : ByteStep d b d') (hd : d.Inv) : d'.Inv := by
  have hck := fold_checksum hd.checksum b
  have hrxCkb := hd.rxCkb
  cases h with
  | skip => exact hd
  | restart => exact inv_initial
  | sync1 hst => rw [hd.search hst]; exact inv_awaitSync2
  | sync2 hst => rw [hd.sync2 hst]; exact inv_readClass
  | cls hst =>
    rw [hd.start hst]
    constructor <;> simp [Decoder.body, ckOf, Memory.wf]
  | ident hst =>
    obtain ⟨hidx, hpay⟩ := hd.noPayload (.inl hst)
    constructor <;> simp_all [Decoder.body, hd.noId hst, hd.rxCka, Memory.wf]
  | lenLo hst =>
    obtain ⟨hidx, hpay⟩ := hd.noPayload (.inr (.inl hst))
    constructor <;> simp_all [Decoder.body, hd.rxCka, Memory.wf]
  | lenHiZero hst hlen =>
    obtain ⟨hidx, hpay⟩ := hd.noPayload (.inr (.inr hst))
    constructor <;>
      simp_all [Decoder.body, Decoder.takeLenHigh, Decoder.payload, hd.rxCka, Memory.wf]
  | lenHiOk hst hpos hcap =>
    obtain ⟨hidx, hpay⟩ := hd.noPayload (.inr (.inr hst))
    constructor <;>
      simp_all [Decoder.body, Decoder.takeLenHigh, Decoder.payload, hd.rxCka, Memory.wf]
    omega
  | store hst => exact inv_stored hd hst b
  | cka hst =>
    obtain ⟨hidx, hlen⟩ := hd.filled (.inl hst)
    have hclear := hd.clear
    constructor <;> simp_all [Decoder.body, Decoder.payload, hd.canonical, hd.checksum]

theorem Decoder.Inv.byte {d d' : Decoder} {b : Byte} {o : Output} (hd : d.Inv)
    (h : effect d (decodeByte d b) = some (d', o)) : d'.Inv :=
  (byteStep_of_effect h).inv hd

end Machine

/-- Settles O32: the reset values written out in `State.reset`. -/
theorem resetIsInitialState : Obligations.ResetIsInitialState :=
  ⟨rfl, rfl, rfl, rfl, rfl, rfl, rfl, rfl, rfl, fun _ => rfl, rfl, inv_initial⟩

/-- Settles O33: the reset state meets the invariant, and every byte of a step keeps it. -/
theorem stepKeepsInvariant : Obligations.StepKeepsInvariant :=
  fun _ _ => step_keeps inv_initial Decoder.Inv.byte

/-! The way back to the sync search (spec/70_reset_and_hazards.md R247) -/

namespace Machine

/-- The most bytes a frame attempt in these registers still takes. -/
def Decoder.bytesLeft (d : Decoder) : Nat :=
  match d.st with
  | .awaitSync1 => 264
  | .awaitSync2 => 263
  | .readClass => 262
  | .readId => 261
  | .readLengthLow => 260
  | .readLengthHigh => 259
  | .readPayload => d.len.toNat - d.idx.toNat + 2
  | .readChecksumA => 2
  | .readChecksumB => 1

theorem Decoder.Inv.bytesLeft_bounds {d : Decoder} (hd : d.Inv) :
    1 ≤ d.bytesLeft ∧ d.bytesLeft ≤ 264 := by
  cases hst : d.st <;> simp only [Decoder.bytesLeft, hst]
  case readPayload =>
    obtain ⟨-, hcap, -⟩ := hd.filling hst
    have : d.len.toNat ≤ 256 := hcap
    omega
  all_goals decide

/-- Every byte ends the attempt or brings its end nearer. -/
theorem ByteStep.bytesLeft_lt {d d' : Decoder} {b : Byte} (h : ByteStep d b d') (hd : d.Inv) :
    d' = Decoder.initial ∨ d'.bytesLeft < d.bytesLeft := by
  cases h with
  | skip hst => exact .inl (hd.search hst)
  | restart => exact .inl rfl
  | lenHiOk hst hpos hcap =>
    have : (lenWithHigh d.len b).toNat ≤ 256 := hcap
    right
    simp only [Decoder.bytesLeft, hst, Decoder.goto_st]
    show (lenWithHigh d.len b).toNat - 0 + 2 < 259
    omega
  | store hst hlt =>
    right
    obtain ⟨-, -, hin⟩ := hd.filling hst
    cases hlast : d.atLast <;>
      simp only [Decoder.bytesLeft, hst, Decoder.stored_st, hlast, Decoder.stored_len,
        Decoder.stored_idx, Decoder.idx_succ_toNat hlt, if_true, Bool.false_eq_true, if_false] <;>
      omega
  | _ => right; simp_all [Decoder.bytesLeft]

/-- A stream long enough for the attempt in flight ends it, at the latest when the attempt is used up. -/
theorem exists_return (bs : List Byte) (rest : List Stimulus) :
    ∀ s : State, s.dec.Inv → s.dec.bytesLeft ≤ bs.length → s.source = stream bs ++ rest →
      ∃ n t, 1 ≤ n ∧ n ≤ s.dec.bytesLeft ∧ steps n s = .next t ∧ t.dec = Decoder.initial := by
  induction bs with
  | nil =>
    intro s hd hlen
    have := hd.bytesLeft_bounds.1
    simp only [List.length_nil] at hlen
    omega
  | cons b bs ih =>
    intro s hd hlen hs
    obtain ⟨d', o, heffect⟩ := effect_decodeByte s.dec b
    have hstep : step s = .next ⟨d', o, stream bs ++ rest, s.sink ++ [o]⟩ := by
      have hp : presented s.source = some [b] := by rw [hs]; rfl
      rw [step_of_presented hp (.single heffect), hs]
      rfl
    have hpos := hd.bytesLeft_bounds.1
    obtain hdone | hnear := (byteStep_of_effect heffect).bytesLeft_lt hd
    · exact ⟨1, _, le_rfl, hpos, by rw [steps, hstep]; rfl, hdone⟩
    · obtain ⟨n, t, hn, hle, hsteps, ht⟩ := ih ⟨d', o, stream bs ++ rest, s.sink ++ [o]⟩
        (hd.byte heffect) (Nat.le_of_lt_succ (hnear.trans_le hlen)) rfl
      exact ⟨n + 1, t, by omega, hle.trans_lt hnear, by rw [steps, hstep]; exact hsteps, ht⟩

end Machine

/-- Settles O49: no attempt takes more than 264 bytes. -/
theorem returnsToSearchWithin264Bytes : Obligations.ReturnsToSearchWithin264Bytes := by
  intro bytes s rest hd hlen hs
  have hbound := hd.bytesLeft_bounds.2
  obtain ⟨n, t, hn, hle, hsteps, ht⟩ := exists_return bytes rest s hd (hbound.trans hlen) hs
  exact ⟨n, t, hn, hle.trans hbound, hsteps, ht⟩

end Sys2Proof

/-! PROOFS. The checksum (spec/30_encoding.md R74, spec/41_payload_checksum.md R123) as sums, and the Record
(spec/42_record_extract.md R150 to R160) as numbers. -/

namespace Sys2Proof

open Machine

/-! The checksum -/

namespace Machine

/-- Accumulator A adds up the bytes (R74). -/
theorem foldl_ckStep_fst (xs : List Byte) (ab : Byte × Byte) :
    (xs.foldl ckStep ab).1 = ab.1 + xs.sum := by
  induction xs generalizing ab with
  | nil => simp
  | cons x xs ih => rw [List.foldl_cons, ih, List.sum_cons, ckStep, add_assoc]

theorem ckOf_fst (xs : List Byte) : (ckOf xs).1 = xs.sum := by
  rw [ckOf, foldl_ckStep_fst, zero_add]

theorem ckOf_snoc_fst_toNat (xs : List Byte) (x : Byte) :
    (ckOf (xs ++ [x])).1.toNat = ((ckOf xs).1.toNat + x.toNat) % 256 := by
  rw [ckOf_snoc, ← ckStep_fst_toNat _ (ckOf xs).2]

theorem ckOf_snoc_snd_toNat (xs : List Byte) (x : Byte) :
    (ckOf (xs ++ [x])).2.toNat = ((ckOf xs).2.toNat + (ckOf (xs ++ [x])).1.toNat) % 256 := by
  rw [ckOf_snoc, ← ckStep_snd_toNat]

/-- The weights n, n - 1, .., 1 of the closed form of accumulator B. -/
def weightedSum (xs : List Byte) : Nat :=
  ((List.range xs.length).map fun k => (xs.length - k) * (xs.getD k 0).toNat).sum

/-- One more byte raises every weight by one. -/
theorem weightedSum_snoc (xs : List Byte) (x : Byte) :
    weightedSum (xs ++ [x]) = weightedSum xs + ((xs ++ [x]).map BitVec.toNat).sum := by
  have hsum : (xs.map BitVec.toNat).sum =
      ((List.range xs.length).map fun k => (xs.getD k 0).toNat).sum := by
    congr 1
    refine List.ext_getElem (by simp) fun k h _ => ?_
    have hk : k < xs.length := by simpa using h
    simp [hk]
  rw [List.map_append, List.sum_append, hsum, ← add_assoc, weightedSum, weightedSum,
    ← List.sum_map_add, List.length_append, List.length_singleton, List.range_succ, List.map_append,
    List.sum_append]
  congr 1
  · refine congrArg List.sum (List.map_congr_left fun k hk => ?_)
    have hk : k < xs.length := List.mem_range.mp hk
    rw [List.getD_append _ _ _ _ hk, Nat.succ_sub hk.le, Nat.succ_mul]
  · simp

/-- The closed form, by induction on the last byte. -/
theorem ckOf_closedForm (xs : List Byte) :
    (ckOf xs).1.toNat = (xs.map BitVec.toNat).sum % 256 ∧
    (ckOf xs).2.toNat = weightedSum xs % 256 := by
  induction xs using List.reverseRecOn with
  | nil => exact ⟨rfl, rfl⟩
  | append_singleton xs x ih =>
    obtain ⟨hfst, hsnd⟩ := ih
    have hfst' : (ckOf (xs ++ [x])).1.toNat = ((xs ++ [x]).map BitVec.toNat).sum % 256 := by
      rw [ckOf_snoc_fst_toNat, hfst, Nat.mod_add_mod, List.map_append, List.sum_append]
      simp
    exact ⟨hfst', by rw [ckOf_snoc_snd_toNat, hsnd, hfst', ← Nat.add_mod, weightedSum_snoc]⟩

end Machine

/-- Settles O52: the recurrence is one round of `ck_of`, the closed form follows from it. -/
theorem checksumRecurrenceAndClosedForm : Obligations.ChecksumRecurrenceAndClosedForm :=
  ⟨rfl, fun xs x => ⟨ckOf_snoc_fst_toNat xs x, ckOf_snoc_snd_toNat xs x⟩, ckOf_closedForm⟩

/-- Settles O53: A is a sum of bytes, in which one of them was changed. -/
theorem singleByteErrorChangesChecksum : Obligations.SingleByteErrorChangesChecksum := by
  intro before after x y
  have hdiff : (ckOf (before ++ [y] ++ after)).1 - (ckOf (before ++ [x] ++ after)).1 = y - x := by
    simp only [ckOf_fst, List.sum_append, List.sum_singleton]
    bv_omega
  refine ⟨hdiff, fun hne heq => hne ?_⟩
  rw [heq, sub_self] at hdiff
  exact (sub_eq_zero.mp hdiff.symm).symm

/-! The Record -/

/-- The two's-complement reading (R11) as a number. -/
theorem Machine.signed32_eq (v : Word) :
    signed32 v = if v.toNat < 2147483648 then (v.toNat : Int) else (v.toNat : Int) - 4294967296 := by
  rw [signed32, BitVec.toInt_eq_toNat_cond]
  split_ifs <;> omega

/-- Settles O54: `read2` and `read4` are the little-endian numbers (R50), `signed32` the signed reading. -/
theorem recordFieldsAtOffsets : Obligations.RecordFieldsAtOffsets := by
  intro m u8 u32 s32
  have hs32 (a : Nat) : signed32 (m.read4 a) = s32 a := by rw [signed32_eq, read4_toNat]
  exact ⟨read2_toNat m 4, rfl, rfl, rfl, rfl, rfl, hs32 16, rfl, hs32 24, hs32 28, hs32 36,
    read4_toNat m 40, read4_toNat m 44, hs32 60⟩

/-- Settles O55: bit 0 of a byte is its parity. -/
theorem validExactlyWhenFixAndFlag : Obligations.ValidExactlyWhenFixAndFlag := by
  intro m
  have hbit (v : Byte) : v.getLsbD 0 = true ↔ v.toNat % 2 = 1 := by
    simp [BitVec.getLsbD, Nat.testBit_zero]
  show validFix (m.readByte 20) (m.readByte 21) = true ↔ _
  rw [validFix, Bool.and_eq_true, decide_eq_true_eq, hbit]

/-- Settles O56: each field reads bytes of the list. -/
theorem unnamedBytesDoNotMatter : Obligations.UnnamedBytesDoNotMatter := by
  intro m n h
  simp only [List.forall_mem_cons] at h
  simp only [decodeRecord, Memory.read1, Memory.read2, Memory.read4, Nat.reduceAdd, h]

/-- Settles O57: the divisors are not 0. -/
theorem conversionsAreExact : Obligations.ConversionsAreExact := by
  have hdeg : (Config.degDiv : ℚ) = 10000000 := by norm_num
  have hmm : (Config.mmDiv : ℚ) = 1000 := by norm_num
  intro r
  simp only [Record.latDeg, Record.lonDeg, Record.hMslM, Record.hAccM, Record.vAccM,
    Record.gSpeedMps, signed32, hdeg, hmm]
  refine ⟨?_, ?_, ?_, ?_, ?_, ?_⟩ <;> exact div_mul_cancel₀ _ (by norm_num)

end Sys2Proof

/-! PROOFS. Noninterference (spec/10_state.md R22, R29): registers the frame in flight has not written, or
does not read any more, are not observed. -/

namespace Sys2Proof

namespace Machine

/-- An operation is selected in its row's state only. -/
theorem state_of_selects {d : Decoder} {b : Byte} {i : Instr} (h : selects d b i = true) :
    ∀ r, i.row = some r → d.st = r.state := by
  intro r hr
  simp only [selects, hr] at h
  simp_all

theorem SameFrame.refl (d : Decoder) : SameFrame d d := by
  constructor <;> simp

/-- The operation a byte selects is read off live registers (R22). -/
theorem SameFrame.decodeByte_eq {d e : Decoder} (h : SameFrame d e) (b : Byte) :
    decodeByte d b = decodeByte e b := by
  have hst' := h.st
  cases hst : d.st <;> rw [hst] at hst'
  case readLengthHigh =>
    simp [decodeByte, hst, ← hst', h.len (by simp [hst, StateName.rank])]
  case readPayload =>
    simp [decodeByte, hst, ← hst', Decoder.atCapacity, Decoder.atLast, h.idx hst,
      h.len (by simp [hst, StateName.rank])]
  case readChecksumB =>
    simp [decodeByte, hst, ← hst', Decoder.checksumOk, Decoder.recognized, Decoder.tooShort,
      h.rxCka hst, h.cka (by simp [hst, StateName.rank]), h.ckb (by simp [hst, StateName.rank]),
      h.cls (by simp [hst, StateName.rank]), h.id (by simp [hst, StateName.rank]),
      h.len (by simp [hst, StateName.rank])]
  all_goals simp [decodeByte, hst, ← hst']

/-- The store writes the same byte at the same index of both buffers. -/
theorem SameFrame.stored {d e : Decoder} (h : SameFrame d e) (hd : d.pay.wf = true)
    (he : e.pay.wf = true) (hst : d.st = .readPayload) (hlt : d.idx.toNat < Config.cap) (b : Byte) :
    SameFrame (d.stored b) (e.stored b) := by
  have hidx := h.idx hst
  have hlen := h.len (by simp [hst, StateName.rank])
  have hcka := h.cka (by simp [hst, StateName.rank])
  have hckb := h.ckb (by simp [hst, StateName.rank])
  have hread (a : Nat) (ha : a < d.idx.toNat + 1) :
      (d.pay.writeByte d.idx.toNat b).readByte a = (e.pay.writeByte e.idx.toNat b).readByte a := by
    rw [Memory.readByte_writeByte hd, Memory.readByte_writeByte he, ← hidx]
    split_ifs with heq
    · rfl
    · exact h.filling hst a (by omega)
  have hlast : d.atLast = e.atLast := by simp [Decoder.atLast, hidx, hlen]
  constructor
  case st => simp [hlast]
  case cka | ckb => simp [hcka, hckb]
  case cls => exact fun _ => h.cls (by simp [hst, StateName.rank])
  case id => exact fun _ => h.id (by simp [hst, StateName.rank])
  case len => exact fun _ => hlen
  case idx => simp [Decoder.stored_idx, hidx]
  case rxCka => intro hst'; cases hl : d.atLast <;> simp [hl] at hst'
  case filling =>
    intro _ a ha
    rw [Decoder.stored_idx, Decoder.idx_succ_toNat hlt] at ha
    exact hread a ha
  case filled =>
    intro hrank a ha
    have hlast : d.idx.toNat + 1 = d.len.toNat := by
      by_contra hne
      simp [Decoder.atLast, hne, StateName.rank] at hrank
    exact hread a (hlast ▸ ha)

/-- The Record reads offsets below 84 only (R152), which a frame long enough has stored. -/
theorem SameFrame.decodeRecord_eq {d e : Decoder} (h : SameFrame d e) (hst : d.st = .readChecksumB)
    (hlen : 84 ≤ d.len.toNat) : decodeRecord d.pay = decodeRecord e.pay := by
  refine unnamedBytesDoNotMatter d.pay e.pay fun a ha => ?_
  have hoff : a < 84 := by revert a; decide
  exact h.filled (by simp [hst, StateName.rank]) a (hoff.trans_le hlen)

/-- Every selected operation but the two stores keeps two register states in the same frame. -/
theorem SameFrame.effect_of_selects {d e d' : Decoder} {b : Byte} {i : Instr} {o : Output}
    (h : SameFrame d e) (hsel : selects d b i = true)
    (hnostore : ¬(d.st = .readPayload ∧ d.idx.toNat < Config.cap))
    (heffect : effect d i = some (d', o)) : ∃ e', effect e i = some (e', o) ∧ SameFrame d' e' := by
  have hguard := guard_of_selects hsel
  have hrow := state_of_selects hsel
  cases i
  case frameHeader | frameRecognized => cases heffect
  case payLast | payMore =>
    simp only [Instr.guard, Bool.and_eq_true, decide_eq_true_eq] at hguard
    exact absurd ⟨hrow _ rfl, hguard.1⟩ hnostore
  case s2Miss | lenHiOver | payGuard | ckbShort | ckbOther | ckbBad =>
    cases heffect
    exact ⟨_, rfl, SameFrame.refl _⟩
  case ckbRec =>
    cases heffect
    refine ⟨_, ?_, SameFrame.refl _⟩
    rw [h.decodeRecord_eq (hrow _ rfl) (by simp_all [Instr.guard])]
    rfl
  case s1Miss => cases heffect; exact ⟨_, rfl, h⟩
  case lenHiZero x =>
    cases heffect
    have hst := hrow _ rfl
    have hlen := h.len (by simp [hst, StateName.rank])
    obtain rfl : x = b := by simpa [encode] using encode_of_selects hsel
    have hzero : (lenWithHigh e.len x).toNat = 0 := by simpa [Instr.guard, hlen] using hguard
    refine ⟨_, rfl, ?_⟩
    constructor <;> simp [hst, StateName.rank, h.cka, h.ckb, h.cls, h.id, hlen,
      Decoder.takeLenHigh, hzero]
  case cka =>
    cases heffect
    have hst := hrow _ rfl
    refine ⟨_, rfl, ?_⟩
    constructor
    case filled => simpa [hst, StateName.rank] using h.filled
    all_goals simp [hst, StateName.rank, h.cka, h.ckb, h.cls, h.id, h.len]
  all_goals
    cases heffect
    have hst := hrow _ rfl
    refine ⟨_, rfl, ?_⟩
    constructor <;> simp [hst, StateName.rank, h.cka, h.ckb, h.cls, h.id, h.len,
      Decoder.takeLenHigh]

/-- A byte keeps two register states in the same frame, with equal outputs. -/
theorem SameFrame.byte {d e d' : Decoder} {b : Byte} {o : Output} (h : SameFrame d e)
    (hd : d.pay.wf = true) (he : e.pay.wf = true)
    (heffect : effect d (decodeByte d b) = some (d', o)) :
    ∃ e', effect e (decodeByte e b) = some (e', o) ∧ SameFrame d' e' := by
  by_cases hstore : d.st = .readPayload ∧ d.idx.toNat < Config.cap
  · obtain ⟨hst, hlt⟩ := hstore
    have hste : e.st = .readPayload := h.st ▸ hst
    have hlte : e.idx.toNat < Config.cap := h.idx hst ▸ hlt
    rw [decodeByte_payload b hst hlt, effect_payload b hst hlt] at heffect
    rw [decodeByte_payload b hste hlte, effect_payload b hste hlte]
    cases heffect
    exact ⟨e.stored b, rfl, h.stored hd he hst hlt b⟩
  · rw [← h.decodeByte_eq b]
    exact h.effect_of_selects (selects_decodeByte d b) hstore heffect

theorem SameFrame.runs {d d' : Decoder} {bs : List Byte} {os : List Output}
    (hruns : Runs d bs d' os) :
    ∀ {e : Decoder}, SameFrame d e → d.pay.wf = true → e.pay.wf = true →
      ∃ e', Runs e bs e' os ∧ SameFrame d' e' := by
  induction hruns with
  | nil => exact fun h _ _ => ⟨_, .nil _, h⟩
  | cons first _ ih =>
    intro e h hd he
    obtain ⟨e₁, first', h₁⟩ := h.byte hd he first
    obtain ⟨e', later', h'⟩ := ih h₁ (pay_wf_of_effect hd first) (pay_wf_of_effect he first')
    exact ⟨e', .cons first' later', h'⟩

/-- Two machines no output has told apart, nor will. -/
structure Alike (s t : State) : Prop where
  wf_left : s.dec.pay.wf = true
  wf_right : t.dec.pay.wf = true
  dec : SameFrame s.dec t.dec
  out : s.out = t.out
  source : s.source = t.source
  sink : s.sink = t.sink

theorem Alike.step {s t : State} (h : Alike s t) :
    ∃ s' t', step s = .next s' ∧ step t = .next t' ∧ Alike s' t' := by
  obtain ⟨hs, ht, hdec, -, hsource, hsink⟩ := h
  cases hp : presented s.source with
  | none =>
    refine ⟨_, _, step_of_presented_none hp, step_of_presented_none (hsource ▸ hp), rfl, rfl,
      SameFrame.refl _, rfl, ?_, hsink⟩
    rw [hsource]
  | some bs =>
    obtain ⟨d', os, hruns⟩ := Runs.total s.dec bs
    obtain ⟨e', hruns', hdec'⟩ := SameFrame.runs hruns hdec hs ht
    refine ⟨_, _, step_of_presented hp hruns, step_of_presented (hsource ▸ hp) hruns',
      hruns.keeps (P := fun d => d.pay.wf = true) pay_wf_of_effect hs,
      hruns'.keeps (P := fun d => d.pay.wf = true) pay_wf_of_effect ht, hdec', rfl, ?_, ?_⟩
    · rw [hsource]
    · rw [hsink]

end Machine

open Machine

/-- Settles O50, by induction on the steps: each keeps the two machines alike. -/
theorem staleValuesAreUnobservable : Obligations.StaleValuesAreUnobservable := by
  intro n
  induction n with
  | zero => exact fun s t _ _ hdec hout hsource hsink => ⟨s, t, rfl, rfl, hdec, hout, hsource, hsink⟩
  | succ n ih =>
    intro s t hs ht hdec hout hsource hsink
    obtain ⟨s₁, t₁, hs₁, ht₁, h₁⟩ := Alike.step ⟨hs, ht, hdec, hout, hsource, hsink⟩
    simp only [steps, hs₁, ht₁]
    exact ih s₁ t₁ h₁.wf_left h₁.wf_right h₁.dec h₁.out h₁.source h₁.sink

end Sys2Proof

/-! PROOFS. A frame byte by byte (spec/30_encoding.md R70, R72; spec/41_payload_checksum.md R138): header,
payload, checksum; and with them the states some byte list reaches (spec/10_state.md R43). -/

namespace Sys2Proof

open Machine

namespace Machine

/-! The header -/

theorem effect_decodeByte_of_eq {d d' : Decoder} {b : Byte} {i : Instr} {o : Output}
    (hi : decodeByte d b = i) (he : effect d i = some (d', o)) :
    effect d (decodeByte d b) = some (d', o) := hi ▸ he

/-- The registers once class, id and the low length byte have arrived. -/
def Decoder.awaitingLenHigh (c i l : Byte) (d : Decoder) : Decoder :=
  { d with
    st := .readLengthHigh, cls := c, id := i, len := lenFromLow l
    cka := c + i + l, ckb := c + (c + i) + (c + i + l) }

/-- The registers once the header of an accepted length has arrived. -/
def Decoder.headed (c i l h : Byte) (d : Decoder) : Decoder :=
  { d with
    st := if l.toNat + 256 * h.toNat = 0 then .readChecksumA else .readPayload
    cls := c, id := i, len := BitVec.ofNat 16 (l.toNat + 256 * h.toNat)
    idx := if l.toNat + 256 * h.toNat = 0 then d.idx else 0
    cka := c + i + l + h
    ckb := c + (c + i) + (c + i + l) + (c + i + l + h) }

theorem runs_awaitingLenHigh {d : Decoder} (hst : d.st = .awaitSync1) (c i l : Byte) :
    Runs d [Config.sync1, Config.sync2, c, i, l] (d.awaitingLenHigh c i l)
      (List.replicate 5 Output.silent) := by
  obtain ⟨st, cls, id, len, idx, rxCka, rxCkb, cka, ckb, pay⟩ := d
  subst hst
  have hruns : Runs ⟨.awaitSync1, cls, id, len, idx, rxCka, rxCkb, cka, ckb, pay⟩
      [Config.sync1, Config.sync2, c, i, l] _ _ :=
    .cons rfl (.cons rfl (.cons rfl (.cons rfl (.single rfl))))
  simpa [Decoder.awaitingLenHigh, ckStep, Decoder.goto, Decoder.fold] using hruns

theorem Decoder.awaitingLenHigh_len (d : Decoder) (c i l : Byte) :
    (d.awaitingLenHigh c i l).len.toNat % 256 = l.toNat :=
  (congrArg (· % 256) (lenFromLow_toNat l)).trans (Nat.mod_eq_of_lt l.isLt)

/-- The last header byte of an accepted length (R108, R109). -/
theorem effect_lenHigh {d : Decoder} (c i l h : Byte) (hcap : l.toNat + 256 * h.toNat ≤ 256) :
    effect (d.awaitingLenHigh c i l) (decodeByte (d.awaitingLenHigh c i l) h) =
      some (d.headed c i l h, Output.silent) := by
  have hlow := d.awaitingLenHigh_len c i l
  by_cases hzero : l.toNat + 256 * h.toNat = 0
  · have hsel : decodeByte (d.awaitingLenHigh c i l) h = .lenHiZero h :=
      (lenHiZeroSkipsPayload.1 _ _ _).mpr ⟨rfl, rfl, by bv_omega, by omega⟩
    rw [hsel, effect, Decoder.takeLenHigh_eq, hlow]
    simp only [Decoder.headed, if_pos hzero]
    rfl
  · have hsel : decodeByte (d.awaitingLenHigh c i l) h = .lenHiOk h :=
      (lenHiOkEntersPayload.1 _ _ _).mpr ⟨rfl, rfl, by omega, by omega⟩
    rw [hsel, effect, Decoder.takeLenHigh_eq, hlow]
    simp only [Decoder.headed, if_neg hzero]
    rfl

theorem runs_headed {d : Decoder} (hst : d.st = .awaitSync1) {c i l h : Byte}
    (hcap : l.toNat + 256 * h.toNat ≤ 256) :
    Runs d (headerBytes c i l h) (d.headed c i l h) (List.replicate 6 Output.silent) :=
  (runs_awaitingLenHigh hst c i l).append (.single (effect_lenHigh c i l h hcap))

/-- A header of a longer length is dropped at its last byte (R110). -/
theorem runs_oversized {d : Decoder} (hst : d.st = .awaitSync1) {c i l h : Byte}
    (hover : 256 < l.toNat + 256 * h.toNat) :
    Runs d (headerBytes c i l h) Decoder.initial
      (List.replicate 5 Output.silent ++ [⟨none, false, some .oversizeError⟩]) := by
  refine (runs_awaitingLenHigh hst c i l).append (.single ?_)
  have hsel : decodeByte (d.awaitingLenHigh c i l) h = .lenHiOver h := 
    (lenHiOverDropsFrame.1 _ _ _).mpr ⟨rfl, rfl, by rwa [d.awaitingLenHigh_len]⟩
  rw [hsel]
  rfl

end Machine

/-- Settles O20: both header rows feed the six bytes; the length decides at the last of them. -/
theorem frameHeaderFromSyncSearch : Obligations.FrameHeaderFromSyncSearch := by
  intro c i l h s hst
  by_cases hcap : l.toNat + 256 * h.toNat ≤ 256
  · have hfeed := (runs_headed hst (c := c) (i := i) hcap).feed_eq rfl
    refine ⟨_, hfeed, ?_, rfl, fun hover => absurd hcap hover.not_ge, fun _ => ⟨rfl, rfl⟩, ?_⟩
    · rintro rfl rfl; exact hfeed
    · show s.sink ++ List.replicate (5 + 1) _ = _
      rw [List.replicate_succ', ← List.append_assoc]
      rfl
  · have hover := Nat.lt_of_not_ge hcap
    have hfeed := (runs_oversized hst (c := c) (i := i) hover).feed_eq rfl
    refine ⟨_, hfeed, ?_, rfl, fun _ => ⟨rfl, rfl⟩, fun h => absurd h hcap, ?_⟩
    · rintro rfl rfl; exact hfeed
    · exact (List.append_assoc ..).symm

namespace Machine

/-! The payload -/

theorem Memory.storeAll_snoc (a : Nat) (p : List Byte) (x : Byte) (m : Memory) :
    Memory.storeAll a (p ++ [x]) m = (Memory.storeAll a p m).writeByte (a + p.length) x := by
  induction p generalizing a m with
  | nil => rfl
  | cons y p ih =>
    simp only [List.cons_append, Memory.storeAll, ih, List.length_cons]
    congr 1
    omega

theorem Memory.ofPayload_snoc (p : List Byte) (x : Byte) :
    Memory.ofPayload (p ++ [x]) = (Memory.ofPayload p).writeByte p.length x := by
  simp [Memory.ofPayload, Memory.storeAll_snoc]

theorem Memory.ofPayload_wf {p : List Byte} (hp : p.length ≤ Config.cap) :
    (Memory.ofPayload p).wf = true := by
  induction p using List.reverseRecOn with
  | nil => rfl
  | append_singleton p x ih =>
    simp only [List.length_append, List.length_singleton] at hp
    rw [Memory.ofPayload_snoc]
    exact Memory.writeByte_wf (ih (by omega)) hp x

/-- The stored payload reads back (R138). -/
theorem Memory.readByte_ofPayload {p : List Byte} (hp : p.length ≤ Config.cap) (a : Nat) :
    (Memory.ofPayload p).readByte a = p.getD a 0 := by
  induction p using List.reverseRecOn with
  | nil => rfl
  | append_singleton p x ih =>
    simp only [List.length_append, List.length_singleton] at hp
    rw [Memory.ofPayload_snoc, Memory.readByte_writeByte (Memory.ofPayload_wf (by omega)),
      ih (by omega)]
    rcases lt_trichotomy a p.length with h | h | h
    · rw [if_neg h.ne, List.getD_append _ _ _ _ h]
    · subst h; simp
    · rw [if_neg h.ne', List.getD_eq_default _ _ h.le, List.getD_eq_default _ _ (by simpa using h)]

/-- The registers once the first `p.length` payload bytes of a frame of length `len` have arrived,
counted from the initial state. -/
def framed (c i : Byte) (len : Half) (p : List Byte) : Decoder where
  st := if p.length = len.toNat then .readChecksumA else .readPayload
  cls := c
  id := i
  len := len
  idx := BitVec.ofNat 9 p.length
  rxCka := 0
  rxCkb := 0
  cka := (ckOf (frameBody c i len p)).1
  ckb := (ckOf (frameBody c i len p)).2
  pay := Memory.ofPayload p

theorem headed_initial (c i : Byte) {len : Half} :
    Decoder.initial.headed c i (lowByte len) (highByte len) = framed c i len [] := by
  have hlen : (lowByte len).toNat + 256 * (highByte len).toNat = len.toNat := by
    rw [lowByte_toNat, highByte_toNat]; omega
  simp [Decoder.headed, framed, hlen, eq_comm (a := 0), frameBody, ckOf, ckStep, Memory.ofPayload,
    Memory.storeAll]

theorem stored_framed {c i : Byte} {len : Half} {p : List Byte} (hlt : p.length < len.toNat)
    (hcap : len.toNat ≤ 256) (x : Byte) :
    (framed c i len p).stored x = framed c i len (p ++ [x]) := by
  have hidx : (framed c i len p).idx.toNat = p.length := by
    simp only [framed, BitVec.toNat_ofNat]; omega
  have hck : ckOf (frameBody c i len (p ++ [x])) = ckStep (ckOf (frameBody c i len p)) x := by
    rw [← ckOf_snoc]; simp [frameBody]
  have hnext : (framed c i len p).idx + 1 = BitVec.ofNat 9 (p ++ [x]).length := by
    simp [framed, BitVec.ofNat_add]
  have hlast : (framed c i len p).atLast = decide ((p ++ [x]).length = len.toNat) := by
    rw [Decoder.atLast, hidx, List.length_append]
    rfl
  simp only [Decoder.stored, Decoder.fold, hlast, hidx, hnext, decide_eq_true_eq]
  simp only [framed, hck, Memory.ofPayload_snoc]

/-- The sync pair and a body, complete or not, from the initial state. -/
theorem runs_framed (c i : Byte) {len : Half} {p : List Byte} (hp : p.length ≤ len.toNat)
    (hcap : len.toNat ≤ 256) :
    Runs Decoder.initial ([Config.sync1, Config.sync2] ++ frameBody c i len p) (framed c i len p)
      (List.replicate (p.length + 6) Output.silent) := by
  induction p using List.reverseRecOn with
  | nil =>
    rw [← headed_initial]
    exact runs_headed rfl (by rw [lowByte_toNat, highByte_toNat]; omega)
  | append_singleton p x ih =>
    simp only [List.length_append, List.length_singleton] at hp ⊢
    have hst : (framed c i len p).st = .readPayload := if_neg (by omega)
    have hlt : (framed c i len p).idx.toNat < Config.cap := by
      simp only [framed, BitVec.toNat_ofNat, Config.cap_eq]; omega
    have hlast := effect_payload x hst hlt
    rw [← decodeByte_payload x hst hlt, stored_framed hp hcap] at hlast
    have hruns := (ih (by omega)).append (.single hlast)
    rw [← List.replicate_succ', List.append_assoc] at hruns
    simpa [frameBody, Nat.add_right_comm] using hruns

end Machine
end Sys2Proof

/-! PROOFS. The invariant is exact (spec/10_state.md R43): the registers it admits are those a byte list
leads to. -/

namespace Sys2Proof

open Machine

namespace Machine

/-- The invariant leaves no register free but those of the frame and the bytes stored. -/
theorem Decoder.Inv.eq_of_frame {d e : Decoder} (hd : d.Inv) (he : e.Inv) (hst : d.st = e.st)
    (hcls : d.cls = e.cls) (hid : d.id = e.id) (hlen : d.len = e.len) (hidx : d.idx = e.idx)
    (hrxCka : d.rxCka = e.rxCka)
    (hread : ∀ a, a < d.idx.toNat → d.pay.readByte a = e.pay.readByte a) : d = e := by
  have hpayload : d.payload = e.payload := by
    rw [Decoder.payload, Decoder.payload, ← hidx]
    exact List.map_congr_left fun a ha => hread a (List.mem_range.mp ha)
  have hbody : d.body = e.body := by
    simp only [Decoder.body, hst, hcls, hid, hlen, hpayload]
  have hck : (d.cka, d.ckb) = (e.cka, e.ckb) := by rw [hd.checksum, he.checksum, hbody]
  have hpay : d.pay = e.pay := by
    refine Memory.ext hd.canonical he.canonical fun a => ?_
    by_cases ha : a < d.idx.toNat
    · exact hread a ha
    · rw [hd.clear a (by omega), he.clear a (by rw [← hidx]; omega)]
  have hrxCkb : d.rxCkb = e.rxCkb := by rw [hd.rxCkb, he.rxCkb]
  obtain ⟨hcka, hckb⟩ := Prod.mk.inj hck
  cases d
  cases e
  simp_all

theorem Decoder.payload_length (d : Decoder) : d.payload.length = d.idx.toNat := by
  simp [Decoder.payload]

theorem Decoder.payload_getD {d : Decoder} {a : Nat} (ha : a < d.idx.toNat) :
    d.payload.getD a 0 = d.pay.readByte a := by
  simp [Decoder.payload, ha]

theorem Decoder.readByte_payload {d : Decoder} (hidx : d.idx.toNat ≤ Config.cap) {a : Nat}
    (ha : a < d.idx.toNat) : d.pay.readByte a = (Memory.ofPayload d.payload).readByte a := by
  rw [Memory.readByte_ofPayload (d.payload_length.trans_le hidx), Decoder.payload_getD ha]

theorem Decoder.ofNat_payload_length (d : Decoder) : BitVec.ofNat 9 d.payload.length = d.idx := by
  rw [d.payload_length, BitVec.ofNat_toNat, BitVec.setWidth_eq]

theorem lenFromLow_lowByte {v : Half} (h : highByte v = 0) : lenFromLow (lowByte v) = v := by
  apply BitVec.eq_of_toNat_eq
  have hhigh : v.toNat / 256 = 0 := by rw [← highByte_toNat, h]; rfl
  rw [lenFromLow_toNat, lowByte_toNat]
  omega

/-- Every register state that meets the invariant is reached from reset: by a sync pair, the body its
registers hold, and the checksum byte received. -/
theorem Decoder.Inv.exists_runs {d : Decoder} (hd : d.Inv) :
    ∃ bs os, Runs Decoder.initial bs d os := by
  have reached {e : Decoder} {bs : List Byte} {os : List Output} (hruns : Runs Decoder.initial bs e os)
      (heq : e.Inv → d = e) : ∃ bs os, Runs Decoder.initial bs d os := by
    rw [heq (hruns.keeps Decoder.Inv.byte inv_initial)]
    exact ⟨bs, os, hruns⟩
  have hplen := d.payload_length
  have hidx := d.ofNat_payload_length.symm
  have hread (a : Nat) : a < d.idx.toNat → _ := Decoder.readByte_payload hd.index (a := a)
  have unread (h : d.idx = 0) (e : Decoder) (a : Nat) (ha : a < d.idx.toNat) :
      d.pay.readByte a = e.pay.readByte a := by simp [h] at ha
  cases hst : d.st
  case awaitSync1 => rw [hd.search hst]; exact ⟨[], [], .nil _⟩
  case awaitSync2 => rw [hd.sync2 hst]; exact ⟨[Config.sync1], _, .single rfl⟩
  case readClass =>
    rw [hd.start hst]
    exact ⟨[Config.sync1, Config.sync2], _, .cons rfl (.single rfl)⟩
  case readId =>
    obtain ⟨hid, hlen⟩ := hd.noId hst
    have hzero := (hd.noPayload (.inl hst)).1
    refine reached (.cons (b := Config.sync1) rfl (.cons (b := Config.sync2) rfl
      (.single (b := d.cls) rfl))) fun he => ?_
    exact hd.eq_of_frame he hst rfl hid hlen hzero (hd.rxCka (by simp [hst])) (unread hzero _)
  case readLengthLow =>
    have hzero := (hd.noPayload (.inr (.inl hst))).1
    refine reached (.cons (b := Config.sync1) rfl (.cons (b := Config.sync2) rfl
      (.cons (b := d.cls) rfl (.single (b := d.id) rfl)))) fun he => ?_
    exact hd.eq_of_frame he hst rfl rfl (hd.noLen hst) hzero (hd.rxCka (by simp [hst]))
      (unread hzero _)
  case readLengthHigh =>
    have hzero := (hd.noPayload (.inr (.inr hst))).1
    refine reached (runs_awaitingLenHigh rfl d.cls d.id (lowByte d.len)) fun he => ?_
    exact hd.eq_of_frame he hst rfl rfl (lenFromLow_lowByte (hd.noHigh hst)).symm hzero
      (hd.rxCka (by simp [hst])) (unread hzero _)
  case readPayload =>
    obtain ⟨-, hcap, hin⟩ := hd.filling hst
    refine reached (runs_framed d.cls d.id (hplen.trans_le hin.le) hcap) fun he => ?_
    refine hd.eq_of_frame he ?_ rfl rfl rfl hidx (hd.rxCka (by simp [hst])) hread
    rw [hst, framed, hplen, if_neg hin.ne]
  case readChecksumA =>
    obtain ⟨hfull, hcap⟩ := hd.filled (.inl hst)
    refine reached (runs_framed d.cls d.id (hplen.trans_le hfull.le) hcap) fun he => ?_
    refine hd.eq_of_frame he ?_ rfl rfl rfl hidx (hd.rxCka (by simp [hst])) hread
    rw [hst, framed, hplen, if_pos hfull]
  case readChecksumB =>
    obtain ⟨hfull, hcap⟩ := hd.filled (.inr hst)
    have hA : (framed d.cls d.id d.len d.payload).st = .readChecksumA := by
      rw [framed, hplen, if_pos hfull]
    have hcka := effect_decodeByte_of_eq ((ckaStoresWithoutFolding.1 _ d.rxCka _).mpr ⟨rfl, hA⟩) rfl
    refine reached ((runs_framed d.cls d.id (hplen.trans_le hfull.le) hcap).append (.single hcka))
      fun he => ?_
    exact hd.eq_of_frame he hst rfl rfl rfl hidx rfl hread

end Machine

/-- Settles O34: every byte keeps the invariant, and the bytes it counts lead to each state it admits. -/
theorem reachableExactlyInvariant : Obligations.ReachableExactlyInvariant := by
  refine fun d => ⟨?_, fun hd => ?_⟩
  · rintro ⟨bytes, t, hfeed, rfl⟩
    obtain ⟨os, hruns⟩ := runs_of_feed hfeed
    exact hruns.keeps Decoder.Inv.byte inv_initial
  · obtain ⟨bs, os, hruns⟩ := hd.exists_runs
    exact ⟨bs, _, hruns.feed_eq rfl, rfl⟩

end Sys2Proof

/-! PROOFS. Frames and streams from the initial state (spec/41_payload_checksum.md R138,
spec/70_reset_and_hazards.md R240 to R248). -/

namespace Sys2Proof

open Machine

namespace Machine

/-! The received checksum -/

/-- The registers with the first received checksum byte `a`. -/
def Decoder.awaitingCkb (a : Byte) (d : Decoder) : Decoder :=
  { d with st := .readChecksumB, rxCka := a }

/-- The two checksum bytes end the frame; what is put out is the last one's output (R131, R139). -/
theorem runs_trailer {d : Decoder} (hst : d.st = .readChecksumA) (a b : Byte) :
    Runs d [a, b] Decoder.initial
      [Output.silent, outputOf (d.awaitingCkb a) (decodeByte (d.awaitingCkb a) b)] := by
  have hcka := effect_decodeByte_of_eq ((ckaStoresWithoutFolding.1 d a a).mpr ⟨rfl, hst⟩) rfl
  obtain ⟨d', o, hckb⟩ := effect_decodeByte (d.awaitingCkb a) b
  obtain rfl := (byteStep_of_effect hckb).eq_initial_of_readChecksumB rfl
  obtain rfl := output_of_effect hckb
  exact .cons hcka (.single hckb)

theorem frameOutput_ckErr (c i : Byte) (p : List Byte) : (frameOutput c i p).ckErr = false := by
  unfold frameOutput
  split_ifs <;> rfl

theorem frameOutput_record (c i : Byte) (p : List Byte) :
    (frameOutput c i p).record = if c = 0x01 ∧ i = 0x07 ∧ 84 ≤ p.length then
      some (decodeRecord (Memory.ofPayload p)) else none := by
  unfold frameOutput
  split_ifs <;> simp_all

theorem ckErr_of_mem_silent_snoc {n : Nat} {o : Output} (ho : o.ckErr = false) :
    ∀ o' ∈ List.replicate n Output.silent ++ [o], o'.ckErr = false :=
  List.forall_mem_append.mpr
    ⟨fun _ h => by rw [List.eq_of_mem_replicate h]; rfl, List.forall_mem_singleton.mpr ho⟩

/-- The bytes of a frame with whatever two bytes for its checksum. -/
def frameWith (c i : Byte) (len : Half) (p : List Byte) (a b : Byte) : List Byte :=
  [Config.sync1, Config.sync2] ++ frameBody c i len p ++ [a, b]

theorem frameWith_length (c i : Byte) (len : Half) (p : List Byte) (a b : Byte) :
    (frameWith c i len p a b).length = p.length + 8 := by
  simp [frameWith, frameBody]

/-- Every byte of it but the last puts out nothing, and the last one ends it. -/
theorem runs_frameWith (c i : Byte) {len : Half} {p : List Byte} (hlen : len.toNat = p.length)
    (hp : p.length ≤ 256) (a b : Byte) :
    Runs Decoder.initial (frameWith c i len p a b) Decoder.initial
      (List.replicate (p.length + 7) Output.silent ++
        [outputOf ((framed c i len p).awaitingCkb a)
          (decodeByte ((framed c i len p).awaitingCkb a) b)]) := by
  have hst : (framed c i len p).st = .readChecksumA := if_pos hlen.symm
  have hruns := (runs_framed c i hlen.ge (hlen.trans_le hp)).append (runs_trailer hst a b)
  rwa [List.append_cons _ Output.silent, ← List.replicate_succ'] at hruns

/-- The last byte of a frame whose two checksum bytes match (R132 to R135). -/
theorem outputOf_match {d : Decoder} (hst : d.st = .readChecksumB) (hA : d.rxCka = d.cka) :
    outputOf d (decodeByte d d.ckb) =
      if d.cls = Config.recClass ∧ d.id = Config.recId then
        if Config.minLen ≤ d.len.toNat then ⟨some (decodeRecord d.pay), false, none⟩
        else ⟨none, false, some .shortPayloadError⟩
      else ⟨none, false, some .swallowed⟩ := by
  split_ifs with hrec hlong
  · rw [(ckbRecYieldsRecord.1 d _ _).mpr ⟨rfl, hst, hA, rfl, hrec.1, hrec.2, hlong⟩]
    rfl
  · rw [(ckbShortDropsSilently.1 d _ _).mpr
      ⟨rfl, hst, hA, rfl, hrec.1, hrec.2, Nat.lt_of_not_le hlong⟩]
    rfl
  · rw [(ckbOtherSwallowsFrame.1 d _ _).mpr ⟨rfl, hst, hA, rfl, hrec⟩]
    rfl

/-- An acceptable frame from the initial state (R138). -/
theorem runs_frame (c i : Byte) {p : List Byte} (hp : p.length ≤ 256) :
    Runs Decoder.initial (frame c i p) Decoder.initial
      (List.replicate (p.length + 7) Output.silent ++ [frameOutput c i p]) := by
  have hlen : (BitVec.ofNat 16 p.length).toNat = p.length := by
    rw [BitVec.toNat_ofNat]; omega
  have hruns := runs_frameWith c i hlen hp (ckOf (frameBody c i (BitVec.ofNat 16 p.length) p)).1
    (ckOf (frameBody c i (BitVec.ofNat 16 p.length) p)).2
  have hout := outputOf_match (d := (framed c i (BitVec.ofNat 16 p.length) p).awaitingCkb
    (ckOf (frameBody c i (BitVec.ofNat 16 p.length) p)).1) rfl rfl
  simp only [Decoder.awaitingCkb, framed, hlen] at hout hruns
  rwa [hout] at hruns

end Machine

/-- Settles O43: header, payload and checksum of an acceptable frame, byte by byte. -/
theorem acceptableFrameDecodes : Obligations.AcceptableFrameDecodes := by
  intro s c i p rest hd hp hs
  rw [← frame_length c i p]
  exact (runs_frame c i hp).steps_snoc hd hs

namespace Machine

/-! Lists of frames -/

theorem runs_frames {frames : List (Byte × Byte × List Byte)}
    (hp : ∀ f ∈ frames, f.2.2.length ≤ 256) :
    ∃ os, Runs Decoder.initial (frames.flatMap fun f => frame f.1 f.2.1 f.2.2) Decoder.initial os ∧
      os.filterMap Output.record = frames.filterMap (fun f =>
        if f.1 = 0x01 ∧ f.2.1 = 0x07 ∧ 84 ≤ f.2.2.length then
          some (decodeRecord (Memory.ofPayload f.2.2)) else none) ∧
      ∀ o ∈ os, o.ckErr = false := by
  induction frames with
  | nil => exact ⟨[], .nil _, rfl, by simp⟩
  | cons f frames ih =>
    obtain ⟨hf, hframes⟩ := List.forall_mem_cons.mp hp
    obtain ⟨os, hruns, hrecords, hckErr⟩ := ih hframes
    refine ⟨_, (runs_frame f.1 f.2.1 hf).append hruns, ?_, ?_⟩
    · have hquiet : (List.replicate (f.2.2.length + 7) Output.silent).filterMap Output.record = [] :=
        List.filterMap_eq_nil_iff.mpr fun o ho => by rw [List.eq_of_mem_replicate ho]; rfl
      rw [List.filterMap_append, List.filterMap_append, hquiet, hrecords, List.nil_append,
        List.filterMap_cons, List.filterMap_cons, List.filterMap_nil, frameOutput_record]
      split_ifs <;> rfl
    · exact List.forall_mem_append.mpr
        ⟨ckErr_of_mem_silent_snoc (frameOutput_ckErr ..), hckErr⟩

end Machine

/-- Settles O44, by induction on the frames. -/
theorem backToBackFramesDecode : Obligations.BackToBackFramesDecode := by
  intro frames s rest hd hp hs
  obtain ⟨os, hruns, hrecords, hckErr⟩ := runs_frames hp
  refine ⟨_, hruns.steps_eq hd hs, rfl, rfl, ?_, ?_⟩
  · rw [List.filterMap_append, hrecords]
  · simpa only [List.drop_left] using hckErr

namespace Machine

/-- Bytes other than 0xB5 are scanned one by one (R101). -/
theorem runs_noise {noise : List Byte} (h : ∀ x ∈ noise, x ≠ Config.sync1) :
    Runs Decoder.initial noise Decoder.initial
      (List.replicate noise.length ⟨none, false, some .framingError⟩) := by
  induction noise with
  | nil => exact .nil _
  | cons x noise ih =>
    obtain ⟨hx, hnoise⟩ := List.forall_mem_cons.mp h
    exact .cons (effect_decodeByte_of_eq (if_neg hx) rfl) (ih hnoise)

end Machine

/-- Settles O45: the header is dropped, the noise scanned, and the frame decodes (R242). -/
theorem frameAfterOversizedHeaderDecodes : Obligations.FrameAfterOversizedHeaderDecodes := by
  intro s c i len noise c' i' p rest hd hover hnoise hp hs
  have hlen : 256 < (lowByte len).toNat + 256 * (highByte len).toNat := by
    rw [lowByte_toNat, highByte_toNat]; omega
  have hruns := ((runs_oversized (d := Decoder.initial) rfl (c := c) (i := i) hlen).append
    (runs_noise hnoise)).append (runs_frame c' i' hp)
  rw [← List.append_assoc] at hruns
  have hsteps := hruns.steps_snoc hd hs
  simp only [List.length_append, headerBytes_length, frame_length, ← List.append_assoc] at hsteps
  exact hsteps

/-- A frame whose two checksum bytes are not both its body's ends with `ck_err` (R136). -/
theorem Machine.runs_mismatch (c i : Byte) {len : Half} {p : List Byte} (hlen : len.toNat = p.length)
    (hp : p.length ≤ 256) {ab : Byte × Byte} (hck : ab ≠ ckOf (frameBody c i len p)) :
    Runs Decoder.initial (frameWith c i len p ab.1 ab.2) Decoder.initial
      (List.replicate (p.length + 7) Output.silent ++ [⟨none, true, some .checksumError⟩]) := by
  have hbad : ab.1 ≠ (ckOf (frameBody c i len p)).1 ∨ ab.2 ≠ (ckOf (frameBody c i len p)).2 := by
    simpa only [ne_eq, Prod.ext_iff, not_and_or] using hck
  have hruns := runs_frameWith c i hlen hp ab.1 ab.2
  rwa [(ckbBadRaisesCkErr.1 _ ab.2 ab.2).mpr ⟨rfl, rfl, hbad⟩] at hruns

/-- Settles O46: the accumulators end at another checksum than the one received
(`singleByteErrorChangesChecksum`). -/
theorem flippedPayloadByteIsCaught : Obligations.FlippedPayloadByteIsCaught := by
  intro s c i before after x y rest hd hcap hne hs
  have hplen : (before ++ [y] ++ after).length = before.length + 1 + after.length := by
    rw [List.length_append, List.length_append, List.length_singleton]
  have hlen : (BitVec.ofNat 16 (before.length + 1 + after.length)).toNat =
      (before ++ [y] ++ after).length := by
    rw [BitVec.toNat_ofNat, hplen]; omega
  have hck (len : Half) : ckOf (frameBody c i len (before ++ [x] ++ after)) ≠
      ckOf (frameBody c i len (before ++ [y] ++ after)) := by
    simpa only [frameBody, ← List.append_assoc] using
      (singleByteErrorChangesChecksum (_ ++ before) after x y).2 hne
  have hsteps := (runs_mismatch c i hlen (hplen.trans_le hcap) (hck _)).steps_snoc hd hs
  rw [frameWith_length, hplen] at hsteps
  exact hsteps

namespace Machine

/-! The sync search (R240, R248) -/

/-- The registers of the sync search after a run of `n` bytes 0xB5. -/
def searching (n : Nat) : Decoder :=
  if n % 2 = 1 then { Decoder.initial with st := .awaitSync2 } else Decoder.initial

theorem searching_odd {n : Nat} (h : n % 2 = 1) :
    searching n = { Decoder.initial with st := .awaitSync2 } := if_pos h

theorem searching_even {n : Nat} (h : n % 2 ≠ 1) : searching n = Decoder.initial := if_neg h

/-- A byte of the search that completes no sync pair puts out nothing (R100 to R103). -/
theorem effect_searching {n : Nat} {b : Byte} (hb : n % 2 = 1 → b ≠ Config.sync2) :
    ∃ o, effect (searching n) (decodeByte (searching n) b) =
        some (searching (if b = Config.sync1 then n + 1 else 0), o) ∧
      o.record = none ∧ o.ckErr = false := by
  by_cases hn : n % 2 = 1
  · have hnext : searching (if b = Config.sync1 then n + 1 else 0) = Decoder.initial := by
      split_ifs
      · exact searching_even (by omega)
      · rfl
    rw [searching_odd hn, hnext]
    exact ⟨_, effect_decodeByte_of_eq (if_neg (hb hn)) rfl, rfl, rfl⟩
  · rw [searching_even hn]
    by_cases hsync : b = Config.sync1
    · rw [if_pos hsync, searching_odd (by omega)]
      exact ⟨_, effect_decodeByte_of_eq (if_pos hsync) rfl, rfl, rfl⟩
    · rw [if_neg hsync]
      exact ⟨_, effect_decodeByte_of_eq (if_neg hsync) rfl, rfl, rfl⟩

theorem trailingSync1_snoc (bs : List Byte) (b : Byte) :
    trailingSync1 (bs ++ [b]) = if b = Config.sync1 then trailingSync1 bs + 1 else 0 := by
  rw [trailingSync1, List.reverse_concat, List.takeWhile_cons, apply_ite List.length]
  exact if_congr beq_iff_eq rfl rfl

/-- A list that ends in a run of 0xB5 ends in one. -/
theorem exists_snoc_sync1 {bs : List Byte} (h : trailingSync1 bs ≠ 0) :
    ∃ bs', bs = bs' ++ [Config.sync1] := by
  induction bs using List.reverseRecOn with
  | nil => exact absurd rfl h
  | append_singleton bs b _ =>
    rw [trailingSync1_snoc] at h
    obtain rfl : b = Config.sync1 := by by_contra hb; exact h (if_neg hb)
    exact ⟨bs, rfl⟩

/-- The search over bytes without a sync pair, by induction on the last byte (R248). -/
theorem runs_noSyncPair {bs : List Byte} (h : ¬[Config.sync1, Config.sync2] <:+: bs) :
    ∃ os, Runs Decoder.initial bs (searching (trailingSync1 bs)) os ∧
      ∀ o ∈ os, o.record = none ∧ o.ckErr = false := by
  induction bs using List.reverseRecOn with
  | nil => exact ⟨[], .nil _, by simp⟩
  | append_singleton bs b ih =>
    obtain ⟨os, hruns, hos⟩ := ih fun hin => h (hin.trans (List.prefix_append bs [b]).isInfix)
    have hb : trailingSync1 bs % 2 = 1 → b ≠ Config.sync2 := by
      rintro hodd rfl
      obtain ⟨bs', rfl⟩ := exists_snoc_sync1 (bs := bs) (by omega)
      exact h ⟨bs', [], by simp⟩
    obtain ⟨o, heffect, ho⟩ := effect_searching hb
    rw [trailingSync1_snoc]
    exact ⟨os ++ [o], hruns.append (.single heffect),
      List.forall_mem_append.mpr ⟨hos, List.forall_mem_singleton.mpr ho⟩⟩

end Machine

/-- Settles O47: the search never leaves its two states, and puts out nothing there. -/
theorem noSyncPairNoOutput : Obligations.NoSyncPairNoOutput := by
  intro bytes s rest hd h hs
  obtain ⟨os, hruns, hos⟩ := runs_noSyncPair h
  refine ⟨_, hruns.steps_eq hd hs, rfl, rfl, ?_, ?_⟩
  · rw [List.length_append, hruns.length]
  · simpa only [List.drop_left] using hos

/-- Settles O48: after the run the search stands where its parity says, and 0x62 decides. -/
theorem oddRunOfSync1Syncs : Obligations.OddRunOfSync1Syncs := by
  intro k s hd hs
  have hpair : ¬[Config.sync1, Config.sync2] <:+: List.replicate k Config.sync1 := fun hin =>
    absurd (List.eq_of_mem_replicate (hin.subset (by simp))) (by decide : Config.sync2 ≠ Config.sync1)
  obtain ⟨os, hruns, -⟩ := runs_noSyncPair hpair
  have htrailing : trailingSync1 (List.replicate k Config.sync1) = k := by
    simp [trailingSync1]
  have hlast : ∃ o, effect (searching k) (decodeByte (searching k) Config.sync2) =
      some (if k % 2 = 1 then { Decoder.initial with st := .readClass } else Decoder.initial, o) := by
    by_cases hk : k % 2 = 1
    · rw [searching_odd hk, if_pos hk]; exact ⟨_, rfl⟩
    · rw [searching_even hk, if_neg hk]; exact ⟨_, rfl⟩
  obtain ⟨o, heffect⟩ := hlast
  rw [htrailing] at hruns
  have hsteps := (hruns.append (.single heffect)).steps_eq (rest := []) hd
    (hs.trans (List.append_nil _).symm)
  rw [List.length_append, List.length_replicate] at hsteps
  exact ⟨_, hsteps, rfl⟩

/-! The Command Encoder's strings (spec/43_command_encoder.md R184) -/

/-- A frame whose length field is above the capacity begins with a header that is dropped. -/
theorem Machine.frame_oversized (c i : Byte) {p : List Byte} (hover : 256 < p.length)
    (hfit : p.length < 65536) : ∃ l h : Byte, 256 < l.toNat + 256 * h.toNat ∧
      frame c i p = headerBytes c i l h ++ (frame c i p).drop 6 := by
  refine ⟨lowByte (BitVec.ofNat 16 p.length), highByte (BitVec.ofNat 16 p.length), ?_, rfl⟩
  rw [lowByte_toNat, highByte_toNat, BitVec.toNat_ofNat]
  omega

/-- Settles O59: a command string is a frame, acceptable or oversized, whatever its open bytes. -/
theorem loopedBackCommandIsAnyFrame : Obligations.LoopedBackCommandIsAnyFrame := by
  intro x s rest hd hs
  by_cases hcap : (commandPayload x).length ≤ 256
  · simp only [if_pos hcap]
    have hsteps := (runs_frame (Config.commandClass x) (Config.commandId x) hcap).steps_snoc hd hs
    refine ⟨_, _, rfl, hsteps, rfl, ?_, rfl, ?_⟩
    · rw [List.drop_length]
      rfl
    · rw [List.append_assoc, List.drop_left]
      exact ckErr_of_mem_silent_snoc (frameOutput_ckErr ..)
  · simp only [if_neg hcap]
    have hbound := (Config.commandLen x).isLt
    rw [← commandPayload_length] at hbound
    obtain ⟨l, h, hover, hbytes⟩ := frame_oversized (Config.commandClass x) (Config.commandId x)
      (Nat.lt_of_not_le hcap) hbound
    have hsource : s.source = stream (headerBytes (Config.commandClass x) (Config.commandId x) l h) ++
        (stream ((commandBytes x).drop 6) ++ rest) := by
      rw [hs, ← List.append_assoc, ← stream_append]
      exact congrArg (fun bytes => stream bytes ++ rest) hbytes
    have hsteps := (runs_oversized rfl hover).steps_snoc hd hsource
    refine ⟨_, _, rfl, hsteps, rfl, rfl, rfl, ?_⟩
    rw [List.append_assoc, List.drop_left]
    exact ckErr_of_mem_silent_snoc rfl

end Sys2Proof
